-- ==== Sys2Proof/Word.lean ====
section
/-! DEFINITION. The word types of the machine (spec/00_scope.md R6, R7, R8): every value is unsigned, so
each type is a plain bit vector or a bounded index and no signed reading of it is ever used. -/

namespace Sys2Proof

/-- An 8-bit value: a general register, a timer, a byte of memory, the immediate `kk` (R6, R91). -/
abbrev Byte := BitVec 8

/-- A 16-bit value: the address register, the program counter, a stack entry, an instruction word (R6). -/
abbrev Word := BitVec 16

/-- The 12-bit field `nnn` of an instruction word (R91). -/
abbrev Imm12 := BitVec 12

/-- The 4-bit field `n` of an instruction word: the row count of `Dxyn` (R91, R93). -/
abbrev Nibble := BitVec 4

/-- The index of a general register, V0 to VF: the fields `x` and `y` (R21, R93). -/
abbrev Reg := Fin 16

/-- The index of a logical key, 0x0 to 0xF (R36). -/
abbrev Key := Fin 16

end Sys2Proof
end

