-- ==== Sys2Proof/Config.lean ====
section
/-! DEFINITION. What is fixed for the whole machine (spec/00_scope.md R6, the rows marked "fixed"), and the
one value the spec leaves free: the random byte of `Cxkk` (R173). The rows R6 marks "parameter" are arguments of the
model: STACK_DEPTH is a field of a state, FONT and ROM are arguments of Reset; the defaults stand in
Machine/Params.lean. -/

namespace Sys2Proof.Config

/-- Bytes of the memory bank, addresses 0x000 to 0xFFF (MEM_SIZE, R6, R32). -/
def memSize : Nat := 4096

/-- The load address of the program and the reset value of the program counter (PROG_BASE, R6). -/
def progBase : Word := 0x200#16

/-- The most bytes a program can have, 0x200 to 0xFFF (PROG_MAX, R6, R293). -/
def progMax : Nat := 3584

/-- The random byte the `k`-th execution of `Cxkk` takes (R172, R173): a FREE VALUE. It has no body, so nothing
can be proved of it and a claim holds for every sequence of draws (notes/assumptions/3.md, DESIGN CHOICE, safe). -/
opaque drawByte : Nat → Byte

end Sys2Proof.Config
end

