-- ==== Sys2Proof/Syntax.lean ====
section
/-! DEFINITION. The 34 instructions (spec/30_encoding.md R96), one constructor per row of
spec/opcode_table.json. The operands are the fields R91 and R92 give the row's format, each in a type that is
exactly as wide as the field, so every term of `Instr` is a well-formed instruction. `8xy6` and `8xyE` keep the
`y` field that their meanings ignore (R95), so that no bit of a word is lost. -/

namespace Sys2Proof

inductive Instr where
  /-- `00E0` `CLS`: clear the frame buffer (R211). -/
  | cls
  /-- `00EE` `RET`: return from subroutine (R141). -/
  | ret
  /-- `1nnn` `JP nnn`: jump (R142). -/
  | jp (nnn : Imm12)
  /-- `2nnn` `CALL nnn`: call subroutine (R143). -/
  | call (nnn : Imm12)
  /-- `3xkk` `SE Vx, kk`: skip if equal to immediate (R144). -/
  | seImm (x : Reg) (kk : Byte)
  /-- `4xkk` `SNE Vx, kk`: skip if not equal to immediate (R145). -/
  | sneImm (x : Reg) (kk : Byte)
  /-- `5xy0` `SE Vx, Vy`: skip if registers equal (R146). -/
  | seReg (x y : Reg)
  /-- `6xkk` `LD Vx, kk`: load immediate (R161). -/
  | ldImm (x : Reg) (kk : Byte)
  /-- `7xkk` `ADD Vx, kk`: add immediate without flag (R162). -/
  | addImm (x : Reg) (kk : Byte)
  /-- `8xy0` `LD Vx, Vy`: register copy (R163). -/
  | ldReg (x y : Reg)
  /-- `8xy1` `OR Vx, Vy` (R164). -/
  | orReg (x y : Reg)
  /-- `8xy2` `AND Vx, Vy` (R165). -/
  | andReg (x y : Reg)
  /-- `8xy3` `XOR Vx, Vy` (R166). -/
  | xorReg (x y : Reg)
  /-- `8xy4` `ADD Vx, Vy`: add with carry out (R167). -/
  | addReg (x y : Reg)
  /-- `8xy5` `SUB Vx, Vy`: subtract (R168). -/
  | subReg (x y : Reg)
  /-- `8xy6` `SHR Vx`: shift right by one; `y` is ignored (R169). -/
  | shr (x y : Reg)
  /-- `8xy7` `SUBN Vx, Vy`: reverse subtract (R170). -/
  | subnReg (x y : Reg)
  /-- `8xyE` `SHL Vx`: shift left by one; `y` is ignored (R171). -/
  | shl (x y : Reg)
  /-- `9xy0` `SNE Vx, Vy`: skip if registers differ (R147). -/
  | sneReg (x y : Reg)
  /-- `Annn` `LD I, nnn`: load address register (R191). -/
  | ldI (nnn : Imm12)
  /-- `Bnnn` `JP V0, nnn`: jump with offset (R148). -/
  | jpV0 (nnn : Imm12)
  /-- `Cxkk` `RND Vx, kk`: masked random byte (R172). -/
  | rnd (x : Reg) (kk : Byte)
  /-- `Dxyn` `DRW Vx, Vy, n`: draw sprite with collision detection (R212). -/
  | drw (x y : Reg) (n : Nibble)
  /-- `Ex9E` `SKP Vx`: skip if key pressed (R231). -/
  | skp (x : Reg)
  /-- `ExA1` `SKNP Vx`: skip if key not pressed (R232). -/
  | sknp (x : Reg)
  /-- `Fx07` `LD Vx, DT`: read delay timer (R233). -/
  | ldVxDT (x : Reg)
  /-- `Fx0A` `LD Vx, K`: wait for a key press (R234). -/
  | ldVxK (x : Reg)
  /-- `Fx15` `LD DT, Vx`: set delay timer (R236). -/
  | ldDTVx (x : Reg)
  /-- `Fx18` `LD ST, Vx`: set sound timer (R237). -/
  | ldSTVx (x : Reg)
  /-- `Fx1E` `ADD I, Vx`: add register to address register (R192). -/
  | addI (x : Reg)
  /-- `Fx29` `LD F, Vx`: address of font glyph (R193). -/
  | ldF (x : Reg)
  /-- `Fx33` `LD B, Vx`: store decimal digits (R194). -/
  | ldB (x : Reg)
  /-- `Fx55` `LD [I], Vx`: store registers (R195). -/
  | storeRegs (x : Reg)
  /-- `Fx65` `LD Vx, [I]`: load registers (R196). -/
  | loadRegs (x : Reg)
  deriving DecidableEq, Repr

end Sys2Proof
end

