-- ==== Sys2Proof/WellFormed.lean ====
section
/-! DEFINITION. What can be ill-formed in this machine: an instruction WORD that matches no row of the opcode
map (spec/30_encoding.md R96, R97), and a ROM that is too long for the program area (spec/70_reset_and_hazards.md
R293). A term of `Instr` cannot be: each operand type is as wide as its field (R91) and "every value 0 to 15 is
legal" for a register field (R93). The opcode map stands here by its match and mask columns, independently of
the decoder's own dispatch (R94), so that the two can be compared. -/

namespace Sys2Proof

/-- The match and mask columns of one row of the opcode map (R96). -/
structure OpcodeRow where
  /-- The fixed bits of the pattern. -/
  fixed : Word
  /-- Which bits of the pattern are fixed. -/
  mask : Word
  deriving DecidableEq, Repr

/-- `op & mask == match` selects the row (R96). -/
def OpcodeRow.selects (r : OpcodeRow) (op : Word) : Bool := op &&& r.mask == r.fixed

/-- Two rows that some word matches both of: their fixed bits agree wherever both rows fix a bit. -/
def OpcodeRow.overlaps (r q : OpcodeRow) : Bool :=
  (r.fixed ^^^ q.fixed) &&& r.mask &&& q.mask == 0#16

/-- The rows of R96 for the patterns `00E0` to `5xy0`. -/
def rowsZeroToFive : List OpcodeRow :=
  [⟨0x00E0#16, 0xFFFF#16⟩,
   ⟨0x00EE#16, 0xFFFF#16⟩,
   ⟨0x1000#16, 0xF000#16⟩,
   ⟨0x2000#16, 0xF000#16⟩,
   ⟨0x3000#16, 0xF000#16⟩,
   ⟨0x4000#16, 0xF000#16⟩,
   ⟨0x5000#16, 0xF00F#16⟩]

/-- The rows of R96 for the patterns `6xkk` to `8xyE`. -/
def rowsSixToEight : List OpcodeRow :=
  [⟨0x6000#16, 0xF000#16⟩,
   ⟨0x7000#16, 0xF000#16⟩,
   ⟨0x8000#16, 0xF00F#16⟩,
   ⟨0x8001#16, 0xF00F#16⟩,
   ⟨0x8002#16, 0xF00F#16⟩,
   ⟨0x8003#16, 0xF00F#16⟩,
   ⟨0x8004#16, 0xF00F#16⟩,
   ⟨0x8005#16, 0xF00F#16⟩,
   ⟨0x8006#16, 0xF00F#16⟩,
   ⟨0x8007#16, 0xF00F#16⟩,
   ⟨0x800E#16, 0xF00F#16⟩]

/-- The rows of R96 for the patterns `9xy0` to `ExA1`. -/
def rowsNineToE : List OpcodeRow :=
  [⟨0x9000#16, 0xF00F#16⟩,
   ⟨0xA000#16, 0xF000#16⟩,
   ⟨0xB000#16, 0xF000#16⟩,
   ⟨0xC000#16, 0xF000#16⟩,
   ⟨0xD000#16, 0xF000#16⟩,
   ⟨0xE09E#16, 0xF0FF#16⟩,
   ⟨0xE0A1#16, 0xF0FF#16⟩]

/-- The rows of R96 for the patterns `Fx07` to `Fx65`. -/
def rowsF : List OpcodeRow :=
  [⟨0xF007#16, 0xF0FF#16⟩,
   ⟨0xF00A#16, 0xF0FF#16⟩,
   ⟨0xF015#16, 0xF0FF#16⟩,
   ⟨0xF018#16, 0xF0FF#16⟩,
   ⟨0xF01E#16, 0xF0FF#16⟩,
   ⟨0xF029#16, 0xF0FF#16⟩,
   ⟨0xF033#16, 0xF0FF#16⟩,
   ⟨0xF055#16, 0xF0FF#16⟩,
   ⟨0xF065#16, 0xF0FF#16⟩]

/-- The opcode map, 34 rows in the order of R96. -/
def opcodeMap : List OpcodeRow := rowsZeroToFive ++ rowsSixToEight ++ rowsNineToE ++ rowsF

/-- The row of the opcode map an instruction belongs to (R96). -/
def rowOf : Instr → OpcodeRow
  | .cls => ⟨0x00E0#16, 0xFFFF#16⟩
  | .ret => ⟨0x00EE#16, 0xFFFF#16⟩
  | .jp _ => ⟨0x1000#16, 0xF000#16⟩
  | .call _ => ⟨0x2000#16, 0xF000#16⟩
  | .seImm _ _ => ⟨0x3000#16, 0xF000#16⟩
  | .sneImm _ _ => ⟨0x4000#16, 0xF000#16⟩
  | .seReg _ _ => ⟨0x5000#16, 0xF00F#16⟩
  | .ldImm _ _ => ⟨0x6000#16, 0xF000#16⟩
  | .addImm _ _ => ⟨0x7000#16, 0xF000#16⟩
  | .ldReg _ _ => ⟨0x8000#16, 0xF00F#16⟩
  | .orReg _ _ => ⟨0x8001#16, 0xF00F#16⟩
  | .andReg _ _ => ⟨0x8002#16, 0xF00F#16⟩
  | .xorReg _ _ => ⟨0x8003#16, 0xF00F#16⟩
  | .addReg _ _ => ⟨0x8004#16, 0xF00F#16⟩
  | .subReg _ _ => ⟨0x8005#16, 0xF00F#16⟩
  | .shr _ _ => ⟨0x8006#16, 0xF00F#16⟩
  | .subnReg _ _ => ⟨0x8007#16, 0xF00F#16⟩
  | .shl _ _ => ⟨0x800E#16, 0xF00F#16⟩
  | .sneReg _ _ => ⟨0x9000#16, 0xF00F#16⟩
  | .ldI _ => ⟨0xA000#16, 0xF000#16⟩
  | .jpV0 _ => ⟨0xB000#16, 0xF000#16⟩
  | .rnd _ _ => ⟨0xC000#16, 0xF000#16⟩
  | .drw _ _ _ => ⟨0xD000#16, 0xF000#16⟩
  | .skp _ => ⟨0xE09E#16, 0xF0FF#16⟩
  | .sknp _ => ⟨0xE0A1#16, 0xF0FF#16⟩
  | .ldVxDT _ => ⟨0xF007#16, 0xF0FF#16⟩
  | .ldVxK _ => ⟨0xF00A#16, 0xF0FF#16⟩
  | .ldDTVx _ => ⟨0xF015#16, 0xF0FF#16⟩
  | .ldSTVx _ => ⟨0xF018#16, 0xF0FF#16⟩
  | .addI _ => ⟨0xF01E#16, 0xF0FF#16⟩
  | .ldF _ => ⟨0xF029#16, 0xF0FF#16⟩
  | .ldB _ => ⟨0xF033#16, 0xF0FF#16⟩
  | .storeRegs _ => ⟨0xF055#16, 0xF0FF#16⟩
  | .loadRegs _ => ⟨0xF065#16, 0xF0FF#16⟩

/-- A word is well-formed when it matches a row of the opcode map; every other word is an invalid opcode (R97). -/
def wordValid (op : Word) : Bool := opcodeMap.any (fun r => r.selects op)

/-- A program is well-formed when it fits the program area: at most 3584 bytes, 0 and odd lengths allowed (R293). -/
def romFits (rom : List Byte) : Bool := decide (rom.length ≤ Config.progMax)

end Sys2Proof
end

