-- ==== Sys2Proof/Decode.lean ====
section
/-! DEFINITION. The decoder (spec/30_encoding.md R90 to R97) and the encoder, its inverse. The decoder is total
on any word and on any bytes; what is no instruction is rejected by the class of R97 it belongs to. -/

namespace Sys2Proof

/-- Why bytes are no instruction: the classes (a) to (f) of R97, and too few bytes for a word. -/
inductive Reject where
  /-- R97 (a): `0nnn` other than 0x00E0 and 0x00EE. -/
  | invalidZero
  /-- R97 (b): `5xyN` with `N != 0`. -/
  | invalidFive
  /-- R97 (c): `8xyN` with `N` in 8, 9, A, B, C, D, F. -/
  | invalidEight
  /-- R97 (d): `9xyN` with `N != 0`. -/
  | invalidNine
  /-- R97 (e): `Exkk` with `kk` other than 9E and A1. -/
  | invalidE
  /-- R97 (f): `Fxkk` with any other `kk`. -/
  | invalidF
  /-- Fewer than two bytes were given: no word at all (R90). -/
  | truncated
  deriving DecidableEq, Repr

/-- What decoding answers: one of the 34 instructions, or invalid, with the class of R97 (R94). -/
inductive Decoded where
  | insn (i : Instr)
  | invalid (why : Reject)
  deriving DecidableEq, Repr

/-- The instruction a decoding holds, if any. -/
def Decoded.instr? : Decoded → Option Instr
  | .insn i => some i
  | .invalid _ => none

/-! ## Byte order and fields -/

/-- Two bytes as a word, the first (lower address) in bits 15 to 8 (R61, R90). -/
def joinBytes (hi lo : Byte) : Word := hi ++ lo

/-- The byte of a word that lies at the lower address (R61). -/
def highByte (op : Word) : Byte := op.extractLsb' 8 8

/-- The byte of a word that lies at the higher address (R61). -/
def lowByte (op : Word) : Byte := op.extractLsb' 0 8

/-- The field `t`, `op[15:12]` (R91). -/
def fieldT (op : Word) : BitVec 4 := op.extractLsb' 12 4

/-- The field `x`, `op[11:8]` (R91). -/
def fieldX (op : Word) : Reg := (op.extractLsb' 8 4).toFin

/-- The field `y`, `op[7:4]` (R91). -/
def fieldY (op : Word) : Reg := (op.extractLsb' 4 4).toFin

/-- The field `n`, `op[3:0]` (R91). -/
def fieldN (op : Word) : Nibble := op.extractLsb' 0 4

/-- The field `kk`, `op[7:0]` (R91). -/
def fieldKK (op : Word) : Byte := op.extractLsb' 0 8

/-- The field `nnn`, `op[11:0]` (R91). -/
def fieldNNN (op : Word) : Imm12 := op.extractLsb' 0 12

/-! ## The decoder -/

/-- Top nibble 0: only the two full words 0x00E0 and 0x00EE (R94, R95). -/
def decodeZero (op : Word) : Decoded :=
  if op = 0x00E0#16 then .insn .cls
  else if op = 0x00EE#16 then .insn .ret
  else .invalid .invalidZero

/-- Top nibble 8: the secondary opcode is `n` (R94). -/
def decodeEight (op : Word) : Decoded :=
  let x := fieldX op
  let y := fieldY op
  match (fieldN op).toNat with
  | 0x0 => .insn (.ldReg x y)
  | 0x1 => .insn (.orReg x y)
  | 0x2 => .insn (.andReg x y)
  | 0x3 => .insn (.xorReg x y)
  | 0x4 => .insn (.addReg x y)
  | 0x5 => .insn (.subReg x y)
  | 0x6 => .insn (.shr x y)
  | 0x7 => .insn (.subnReg x y)
  | 0xE => .insn (.shl x y)
  | _ => .invalid .invalidEight

/-- Top nibble E: the secondary opcode is `kk` (R94). -/
def decodeE (op : Word) : Decoded :=
  if fieldKK op = 0x9E#8 then .insn (.skp (fieldX op))
  else if fieldKK op = 0xA1#8 then .insn (.sknp (fieldX op))
  else .invalid .invalidE

/-- Top nibble F: the secondary opcode is `kk` (R94). -/
def decodeF (op : Word) : Decoded :=
  let x := fieldX op
  let kk := fieldKK op
  if kk = 0x07#8 then .insn (.ldVxDT x)
  else if kk = 0x0A#8 then .insn (.ldVxK x)
  else if kk = 0x15#8 then .insn (.ldDTVx x)
  else if kk = 0x18#8 then .insn (.ldSTVx x)
  else if kk = 0x1E#8 then .insn (.addI x)
  else if kk = 0x29#8 then .insn (.ldF x)
  else if kk = 0x33#8 then .insn (.ldB x)
  else if kk = 0x55#8 then .insn (.storeRegs x)
  else if kk = 0x65#8 then .insn (.loadRegs x)
  else .invalid .invalidF

/-- The dispatch of R94 on the top nibble; strict on every fixed nibble of a pattern (R95). -/
def decode (op : Word) : Decoded :=
  match (fieldT op).toNat with
  | 0x0 => decodeZero op
  | 0x1 => .insn (.jp (fieldNNN op))
  | 0x2 => .insn (.call (fieldNNN op))
  | 0x3 => .insn (.seImm (fieldX op) (fieldKK op))
  | 0x4 => .insn (.sneImm (fieldX op) (fieldKK op))
  | 0x5 => if fieldN op = 0#4 then .insn (.seReg (fieldX op) (fieldY op)) else .invalid .invalidFive
  | 0x6 => .insn (.ldImm (fieldX op) (fieldKK op))
  | 0x7 => .insn (.addImm (fieldX op) (fieldKK op))
  | 0x8 => decodeEight op
  | 0x9 => if fieldN op = 0#4 then .insn (.sneReg (fieldX op) (fieldY op)) else .invalid .invalidNine
  | 0xA => .insn (.ldI (fieldNNN op))
  | 0xB => .insn (.jpV0 (fieldNNN op))
  | 0xC => .insn (.rnd (fieldX op) (fieldKK op))
  | 0xD => .insn (.drw (fieldX op) (fieldY op) (fieldN op))
  | 0xE => decodeE op
  | _ => decodeF op

/-- Decoding from bytes, lowest address first: the first two make the word, the rest is handed back. Total on any
list of bytes. -/
def decodeBytes : List Byte → Decoded × List Byte
  | hi :: lo :: rest => (decode (joinBytes hi lo), rest)
  | short => (.invalid .truncated, short)

/-! ## The encoder -/

/-- A register number as the four bits of a field (R91). -/
def regBits (x : Reg) : BitVec 4 := BitVec.ofFin x

/-- Format A: `t[15:12]`, `nnn[11:0]` (R92). -/
def formatA (t : BitVec 4) (nnn : Imm12) : Word := t ++ nnn

/-- Formats XK and X: `t[15:12]`, `x[11:8]`, `kk[7:0]` (R92). -/
def formatXK (t : BitVec 4) (x : Reg) (kk : Byte) : Word := (t ++ regBits x) ++ kk

/-- Formats XY and XYN: `t[15:12]`, `x[11:8]`, `y[7:4]`, `n[3:0]` (R92). -/
def formatXYN (t : BitVec 4) (x y : Reg) (n : Nibble) : Word := ((t ++ regBits x) ++ regBits y) ++ n

/-- The word of an instruction, from the match column of R96 and the bit layouts of R92. -/
def encode : Instr → Word
  | .cls => 0x00E0#16
  | .ret => 0x00EE#16
  | .jp nnn => formatA 0x1#4 nnn
  | .call nnn => formatA 0x2#4 nnn
  | .seImm x kk => formatXK 0x3#4 x kk
  | .sneImm x kk => formatXK 0x4#4 x kk
  | .seReg x y => formatXYN 0x5#4 x y 0x0#4
  | .ldImm x kk => formatXK 0x6#4 x kk
  | .addImm x kk => formatXK 0x7#4 x kk
  | .ldReg x y => formatXYN 0x8#4 x y 0x0#4
  | .orReg x y => formatXYN 0x8#4 x y 0x1#4
  | .andReg x y => formatXYN 0x8#4 x y 0x2#4
  | .xorReg x y => formatXYN 0x8#4 x y 0x3#4
  | .addReg x y => formatXYN 0x8#4 x y 0x4#4
  | .subReg x y => formatXYN 0x8#4 x y 0x5#4
  | .shr x y => formatXYN 0x8#4 x y 0x6#4
  | .subnReg x y => formatXYN 0x8#4 x y 0x7#4
  | .shl x y => formatXYN 0x8#4 x y 0xE#4
  | .sneReg x y => formatXYN 0x9#4 x y 0x0#4
  | .ldI nnn => formatA 0xA#4 nnn
  | .jpV0 nnn => formatA 0xB#4 nnn
  | .rnd x kk => formatXK 0xC#4 x kk
  | .drw x y n => formatXYN 0xD#4 x y n
  | .skp x => formatXK 0xE#4 x 0x9E#8
  | .sknp x => formatXK 0xE#4 x 0xA1#8
  | .ldVxDT x => formatXK 0xF#4 x 0x07#8
  | .ldVxK x => formatXK 0xF#4 x 0x0A#8
  | .ldDTVx x => formatXK 0xF#4 x 0x15#8
  | .ldSTVx x => formatXK 0xF#4 x 0x18#8
  | .addI x => formatXK 0xF#4 x 0x1E#8
  | .ldF x => formatXK 0xF#4 x 0x29#8
  | .ldB x => formatXK 0xF#4 x 0x33#8
  | .storeRegs x => formatXK 0xF#4 x 0x55#8
  | .loadRegs x => formatXK 0xF#4 x 0x65#8

/-- An instruction's bytes as memory holds them, the high byte at the lower address (R61). -/
def encodeBytes (i : Instr) : List Byte := [highByte (encode i), lowByte (encode i)]

/-! ## The opcode table's numbering -/

/-- The word the opcode table numbers by `w` and `nbits`: its low `nbits` bits, every bit above them 0. The machine's
instructions are one 16-bit word (R90), which the table numbers as R7 does. -/
def tableWord (nbits w : Nat) : Word := BitVec.ofNat 16 (w % 2 ^ nbits)

/-- The instruction the decoder reads from the word `w` of the opcode table, laid out in memory order (R61). -/
def decodeTableWord (nbits w : Nat) : Option Instr :=
  (decodeBytes [highByte (tableWord nbits w), lowByte (tableWord nbits w)]).1.instr?

end Sys2Proof
end

