-- ==== Sys2Proof/Machine/Params.lean ====
section
/-! DEFINITION. The defaults that spec/00_scope.md R6 and spec/20_memory.md R67 give the two parameters of the machine
(R6, kind "parameter": an argument of the model with the default shown). STACK_DEPTH is an argument as the field
`stackDepth` of a state, FONT as an argument of the host operation Reset; the defaults are what `State.reset` holds. -/

namespace Sys2Proof.Machine

/-- The default of STACK_DEPTH (R6; spec/92_eei_decisions.md D3; notes/assumptions/1.md). -/
def defaultStackDepth : Nat := 16

/-- FONT: `FONT[5*d + r]` is row `r` of the glyph of digit `d`; the default table of R67, which the spec itself takes
from general knowledge (D19; PRESUMED, notes/assumptions/2.md). -/
def font : Vector Byte 80 :=
  #v[0xF0#8, 0x90#8, 0x90#8, 0x90#8, 0xF0#8,  0x20#8, 0x60#8, 0x20#8, 0x20#8, 0x70#8,
     0xF0#8, 0x10#8, 0xF0#8, 0x80#8, 0xF0#8,  0xF0#8, 0x10#8, 0xF0#8, 0x10#8, 0xF0#8,
     0x90#8, 0x90#8, 0xF0#8, 0x10#8, 0x10#8,  0xF0#8, 0x80#8, 0xF0#8, 0x10#8, 0xF0#8,
     0xF0#8, 0x80#8, 0xF0#8, 0x90#8, 0xF0#8,  0xF0#8, 0x10#8, 0x20#8, 0x40#8, 0x40#8,
     0xF0#8, 0x90#8, 0xF0#8, 0x90#8, 0xF0#8,  0xF0#8, 0x90#8, 0xF0#8, 0x10#8, 0xF0#8,
     0xF0#8, 0x90#8, 0xF0#8, 0x90#8, 0x90#8,  0xE0#8, 0x90#8, 0xE0#8, 0x90#8, 0xE0#8,
     0xF0#8, 0x80#8, 0x80#8, 0x80#8, 0xF0#8,  0xE0#8, 0x90#8, 0x90#8, 0x90#8, 0xE0#8,
     0xF0#8, 0x80#8, 0xF0#8, 0x80#8, 0xF0#8,  0xF0#8, 0x80#8, 0xF0#8, 0x80#8, 0x80#8]

end Sys2Proof.Machine
end

