-- ==== Sys2Proof/Machine/State.lean ====
section
/-! DEFINITION. The state of the machine (spec/10_state.md R20), its reset values (R41), and the reasons a step can
stop. All of it is plain data. -/

namespace Sys2Proof.Machine

/-- The causes of a fault (spec/60_exceptions.md R251, codes 1 to 5). Code 0, InvalidOpcode, is a report and no fault. -/
inductive Cause where
  /-- A cycle in `Running` starts with `PC > 0xFFE` (R121). -/
  | fetchOutOfRange
  /-- `00EE` with an empty stack (R141). -/
  | stackUnderflow
  /-- `2nnn` with a full stack (R143). -/
  | stackOverflow
  /-- A span from `I` that passes 0xFFF (R65). -/
  | memoryOutOfRange
  /-- `Ex9E` or `ExA1` with `V[x] > 0x0F` (R231, R232). -/
  | keyIndexOutOfRange
  deriving DecidableEq, Repr

/-- The fault record `(cause, pc, op)` (R38). -/
structure FaultRecord where
  /-- The cause, by name; `causeCode` gives its number. -/
  cause : Cause
  /-- The address of the faulting instruction. -/
  pc : Word
  /-- Its opcode; 0x0000 for FetchOutOfRange, which fetched none. -/
  op : Word
  deriving DecidableEq, Repr

/-- One event `InvalidOpcode(pc, op)` handed to the host (R40, R254). -/
structure Report where
  /-- The address of the invalid word. -/
  pc : Word
  /-- The invalid word. -/
  op : Word
  deriving DecidableEq, Repr

/-- The run state (R37). -/
inductive RunState where
  /-- A cycle executes one instruction. -/
  | running
  /-- An `Fx0A` at `PC` waits for a key press that will fill `V[x]`. -/
  | awaitingKey (x : Reg)
  /-- A fault was raised; only Reset leaves this state. -/
  | faulted
  deriving DecidableEq, Repr

/-- The memory bank: the bytes that differ from the reset contents, by strictly rising address
(`Memory.wf` in Machine/Ops.lean; an unlisted byte reads as `resetByte`, notes/assumptions/9.md). -/
abbrev Memory := List Host.Cell

/-- The frame buffer: row `y` (0 on top) is entry `y`, and cell `FB[x][y]` is bit `x` of it (R33, R34). -/
abbrev FrameBuffer := Vector (BitVec 64) 32

/-- The complete state (R20), and three fields of the model's own: the output trace `reports` that R40 lets a model
keep, `draws`, the argument of the free random byte (R173), and `stackDepth`, the parameter STACK_DEPTH of R6. -/
structure State where
  /-- `V[0]` to `V[15]`, the general registers (R21). -/
  v : Vector Byte 16
  /-- `I`, the address register (R24). -/
  i : Word
  /-- `PC`: the address of the instruction to execute, or being executed (R25). -/
  pc : Word
  /-- `DT`, the delay timer (R28). -/
  dt : Byte
  /-- `ST`, the sound timer (R29). -/
  st : Byte
  /-- `STACK`, the return addresses, newest first (R30, R31; notes/assumptions/4.md). -/
  stack : List Word
  /-- `M`, the memory bank (R32). -/
  mem : Memory
  /-- `FB`, the frame buffer (R33). -/
  fb : FrameBuffer
  /-- `DIRTY`, the draw-dirty flag (R35). -/
  dirty : Bool
  /-- `KEYS[0]` to `KEYS[15]`: true while the key is pressed (R36). -/
  keys : Vector Bool 16
  /-- `RUN`, the run state (R37). -/
  run : RunState
  /-- `FAULT`, the fault record (R38). -/
  fault : Option FaultRecord
  /-- The events reported so far, oldest first: an output trace no rule reads (R40; notes/assumptions/6.md). -/
  reports : List Report
  /-- How many random bytes have been drawn (R173; notes/assumptions/3.md). -/
  draws : Nat
  /-- STACK_DEPTH, the most entries the call stack holds: a parameter of the machine, which no operation changes
  (R6, R30; notes/assumptions/1.md). -/
  stackDepth : Nat
  deriving DecidableEq, Repr

/-- Why the model would stop with a fault outside the machine's state: no reason exists. Every error a running core can
meet (R250 to R256) is a fault entry that the machine itself takes: a next state with `RUN` Faulted and `FAULT`
written. Nobody raises a `Fault`; that is safe (notes/assumptions/5.md). -/
inductive Fault
  deriving DecidableEq, Repr

/-- Why an operation is refused. -/
inductive Refusal where
  /-- An instruction that has no meaning yet. Raised by `exec`'s rejected arms only, of which none is left; safe. -/
  | notModelled (mnemonic : String)
  /-- Reset was given a ROM of more than 3584 bytes: it is not performed and the host gets an error (R293). Raised by
  the host operation Reset only, never by a step; safe (notes/assumptions/13.md). -/
  | romTooLong
  deriving DecidableEq, Repr

/-- What an instruction's meaning and an operation answer. -/
abbrev Result := Host.Outcome State Fault Refusal

/-- The state right after Reset with an empty ROM (R41, R290): no byte differs from the reset contents. The parameter
STACK_DEPTH is at its default. -/
def State.reset : State where
  v := Vector.replicate 16 0x00#8
  i := 0x0000#16
  pc := Config.progBase
  dt := 0x00#8
  st := 0x00#8
  stack := []
  mem := []
  fb := Vector.replicate 32 0#64
  dirty := false
  keys := Vector.replicate 16 false
  run := .running
  fault := none
  reports := []
  draws := 0
  stackDepth := defaultStackDepth

/-- The state right after Reset with an empty ROM of the machine whose STACK_DEPTH is `depth` (R6, R41). -/
def State.resetWith (depth : Nat) : State := { State.reset with stackDepth := depth }

end Sys2Proof.Machine
end

