-- ==== Sys2Proof/Machine/Ops.lean ====
section
/-! DEFINITION. The named operations over registers, memory, frame buffer, stack and keypad, and the entry into a
fault, each said once. Every meaning is written over these. -/

namespace Sys2Proof.Machine

/-! ## Registers -/

/-- `V[r]` (R21). -/
def State.reg (s : State) (r : Reg) : Byte := s.v[r]

/-- `V[r] <- b` (R21): every register is an ordinary register, V0 and VF included. -/
def State.setReg (s : State) (r : Reg) (b : Byte) : State := { s with v := s.v.set r b }

/-- VF, the flag register (R22). -/
def vf : Reg := 0xF

/-- `I <- w` (R24). -/
def State.setI (s : State) (w : Word) : State := { s with i := w }

/-- `PC <- w`; a target is 16 bits, with no range test and no alignment test (R27). -/
def State.setPc (s : State) (w : Word) : State := { s with pc := w }

/-- `DT <- b` (R28). -/
def State.setDT (s : State) (b : Byte) : State := { s with dt := b }

/-- `ST <- b` (R29). -/
def State.setST (s : State) (b : Byte) : State := { s with st := b }

/-- `PC <- PC + 2`, the plain advance (R123). -/
def State.advance (s : State) : State := s.setPc (s.pc + 2#16)

/-- `if cond then PC <- PC + 4 else PC <- PC + 2`, the skip rule (R123, R140). -/
def State.skipIf (s : State) (cond : Bool) : State :=
  if cond then s.setPc (s.pc + 4#16) else s.advance

/-! ## The call stack -/

/-- Put a new sequence of return addresses in place (R30). -/
def State.setStack (s : State) (l : List Word) : State := { s with stack := l }

/-- `push(STACK, v)`, made only when `len(STACK) < STACK_DEPTH` (R31); `none` when the stack is full. -/
def State.push (s : State) (w : Word) : Option State :=
  if s.stack.length < s.stackDepth then some (s.setStack (w :: s.stack)) else none

/-- `pop(STACK)`, made only when the stack is not empty (R31): the newest entry, and the state without it. -/
def State.pop (s : State) : Option (Word × State) :=
  match s.stack with
  | [] => none
  | w :: rest => some (w, s.setStack rest)

/-! ## The memory bank -/

/-- What a byte of the bank holds at reset with an empty ROM, and so what an unlisted address reads as: the font table
in 0x000 to 0x04F, zero above (R41, R66; notes/assumptions/9.md). -/
def resetByte (a : Nat) : Byte := if h : a < 80 then font[a] else 0x00#8

/-- `M[a]` (R32). Every rule that reads memory tests the range first, so `a ≤ 0xFFF` wherever a meaning uses it
(R9, R65; notes/assumptions/12.md). -/
def Memory.read : Memory → Nat → Byte
  | [], a => resetByte a
  | (k, b) :: m, a => if k = a then b else Memory.read m a

/-- List the byte `b` at the address `a`, in its place by address. -/
def Memory.list : Memory → Nat → Byte → Memory
  | [], a, b => [(a, b)]
  | (k, c) :: m, a, b =>
    if a < k then (a, b) :: (k, c) :: m
    else if a = k then (a, b) :: m
    else (k, c) :: Memory.list m a b

/-- Take the address `a` off the list, so that it reads as at reset. -/
def Memory.unlist : Memory → Nat → Memory
  | [], _ => []
  | (k, c) :: m, a => if k = a then m else (k, c) :: Memory.unlist m a

/-- `MemWrite(a, 1, b)` (R9): writing what an unlisted address reads as removes the entry, so equal memories are equal
lists. Every byte is writable, font and program included (R66, R68). -/
def Memory.write (m : Memory) (a : Nat) (b : Byte) : Memory :=
  if b = resetByte a then Memory.unlist m a else Memory.list m a b

/-- Bytes stored at rising addresses from `a` (R62). -/
def Memory.writeBytes : Memory → Nat → List Byte → Memory
  | m, _, [] => m
  | m, a, b :: bs => Memory.writeBytes (Memory.write m a b) (a + 1) bs

/-- The list is canonical above the address bound `lo`: addresses strictly rising, each in the bank, no entry equal to
what an unlisted address reads as. -/
def Memory.wfFrom : Nat → Memory → Bool
  | _, [] => true
  | lo, (k, b) :: m => decide (lo ≤ k) && decide (k < Config.memSize) && decide (b ≠ resetByte k)
      && Memory.wfFrom (k + 1) m

/-- The canonical form of the memory list. -/
def Memory.wf (m : Memory) : Bool := Memory.wfFrom 0 m

/-- `M[a]` in a state. -/
def State.readByte (s : State) (a : Nat) : Byte := Memory.read s.mem a

/-- Put a new memory in place. -/
def State.setMem (s : State) (m : Memory) : State := { s with mem := m }

/-- Store bytes at rising addresses from `a` (R62). -/
def State.storeBytes (s : State) (a : Nat) (bs : List Byte) : State := s.setMem (Memory.writeBytes s.mem a bs)

/-! ## The frame buffer -/

/-- `FB[x][y]` for `x ≤ 63` and `y ≤ 31` (R33); a place outside the grid holds no cell and reads false. -/
def FrameBuffer.cell (fb : FrameBuffer) (x y : Nat) : Bool :=
  if h : y < 32 then fb[y].getLsbD x else false

/-- `FB[x][y] <- FB[x][y] ^ 1` for `x ≤ 63` and `y ≤ 31` (R214). -/
def FrameBuffer.toggle (fb : FrameBuffer) (x y : Nat) : FrameBuffer :=
  if h : y < 32 then fb.set y (fb[y] ^^^ BitVec.twoPow 64 x) else fb

/-- The frame buffer with every cell 0 (R211). -/
def FrameBuffer.clear : FrameBuffer := Vector.replicate 32 0#64

/-- Put a new frame buffer in place. -/
def State.setFb (s : State) (fb : FrameBuffer) : State := { s with fb := fb }

/-- `DIRTY <- b` (R35). -/
def State.setDirty (s : State) (b : Bool) : State := { s with dirty := b }

/-! ## The keypad, the run state, the output trace, the random byte -/

/-- `KEYS[k]` (R36). -/
def State.key (s : State) (k : Key) : Bool := s.keys[k]

/-- `KEYS[k] <- b` (R36): only the host operations do this. -/
def State.setKey (s : State) (k : Key) (b : Bool) : State := { s with keys := s.keys.set k b }

/-- `RUN <- r` (R37). -/
def State.setRun (s : State) (r : RunState) : State := { s with run := r }

/-- `report InvalidOpcode(PC, op)`: one event to the host, appended to the output trace (R40, R254). -/
def State.report (s : State) (op : Word) : State := { s with reports := s.reports ++ [⟨s.pc, op⟩] }

/-- The byte the next `draw()` gives: a free value (R173). -/
def State.drawn (s : State) : Byte := Config.drawByte s.draws

/-- A draw has been used up: the next `draw()` is a fresh one (R173). -/
def State.countDraw (s : State) : State := { s with draws := s.draws + 1 }

/-! ## Faults -/

/-- The code of a cause (R251). -/
def causeCode : Cause → Nat
  | .fetchOutOfRange => 1
  | .stackUnderflow => 2
  | .stackOverflow => 3
  | .memoryOutOfRange => 4
  | .keyIndexOutOfRange => 5

/-- Fault entry, `raise <Fault>(pc, op)` (R256): `FAULT` records the cause, the address of the instruction and its word,
`RUN` becomes Faulted, and nothing else changes. There is no return from a fault: only the host's Reset leaves
`Faulted` (R258), so no operation stands beside this one. -/
def State.raise (s : State) (c : Cause) (op : Word) : State :=
  { s with fault := some ⟨c, s.pc, op⟩, run := .faulted }

/-- An instruction's own fault: the recorded `op` is the instruction's word (R251; notes/assumptions/10.md). -/
def faultOn (c : Cause) (i : Instr) (s : State) : Result := .next (s.raise c (encode i))

/-! ## Fetch -/

/-- The fetch (R121): `M[PC] ++ M[PC+1]` when `PC + 1 ≤ 0xFFF`, no address wrap; `none` when it would leave the bank. -/
def State.fetch (s : State) : Option Word :=
  if s.pc.toNat + 1 < Config.memSize then
    some (joinBytes (s.readByte s.pc.toNat) (s.readByte (s.pc.toNat + 1)))
  else none

/-- The invalid opcode (R124): report it, `PC <- PC + 2`, nothing else. -/
def State.skipInvalid (s : State) (op : Word) : State := (s.report op).advance

end Sys2Proof.Machine
end

