-- ==== Sys2Proof/Machine/Flags.lean ====
section
/-! DEFINITION. Every flag computation of the spec (spec/10_state.md R22: six instructions define a flag outcome). A
flag is the byte 0x00 or 0x01 (R160). Sums and comparisons are on the unbounded numbers (R8). -/

namespace Sys2Proof.Machine.Flags

/-- A flag outcome as the byte VF receives (R160, R213). -/
def ofBool (b : Bool) : Byte := if b then 0x01#8 else 0x00#8

/-- `8xy4`: the unwrapped sum exceeds 255 (R167). -/
def carry (a b : Byte) : Bool := decide (a.toNat + b.toNat > 255)

/-- `8xy5` and `8xy7`: the minuend is at least the subtrahend, no borrow (R168, R170). -/
def noBorrow (minuend subtrahend : Byte) : Bool := decide (minuend.toNat ≥ subtrahend.toNat)

/-- `8xy6`: bit 0 before the shift (R169). -/
def lowBit (a : Byte) : Bool := a.getLsbD 0

/-- `8xyE`: bit 7 before the shift (R171). -/
def highBit (a : Byte) : Bool := a.getLsbD 7

end Sys2Proof.Machine.Flags

namespace Sys2Proof.Machine

/-- The end of a flag-writing instruction: the result goes to `V[x]` first and the flag to VF last, so with `x = 0xF`
VF holds the flag (R10, R160). -/
def State.setResultAndFlag (s : State) (x : Reg) (result : Byte) (flag : Bool) : State :=
  (s.setReg x result).setReg vf (Flags.ofBool flag)

end Sys2Proof.Machine
end

