-- ==== Sys2Proof/Machine/Alu.lean ====
section
/-! DEFINITION. Load, arithmetic, logic, shift and random instructions (spec/42_alu.md R160 to R174). Each ends with
`PC <- PC + 2`; operands are read before anything is written (R160). -/

namespace Sys2Proof.Machine

/-- `6xkk` (R161): `V[x] <- kk`. -/
def execLdImm (x : Reg) (kk : Byte) (s : State) : Result := .next (s.setReg x kk).advance

/-- `7xkk` (R162): `V[x] <- (V[x] + kk) mod 256`, no flag. -/
def execAddImm (x : Reg) (kk : Byte) (s : State) : Result := .next (s.setReg x (s.reg x + kk)).advance

/-- `8xy0` (R163): `V[x] <- V[y]`. -/
def execLdReg (x y : Reg) (s : State) : Result := .next (s.setReg x (s.reg y)).advance

/-- `8xy1` (R164): `V[x] <- V[x] | V[y]`, VF untouched. -/
def execOrReg (x y : Reg) (s : State) : Result := .next (s.setReg x (s.reg x ||| s.reg y)).advance

/-- `8xy2` (R165): `V[x] <- V[x] & V[y]`, VF untouched. -/
def execAndReg (x y : Reg) (s : State) : Result := .next (s.setReg x (s.reg x &&& s.reg y)).advance

/-- `8xy3` (R166): `V[x] <- V[x] ^ V[y]`, VF untouched. -/
def execXorReg (x y : Reg) (s : State) : Result := .next (s.setReg x (s.reg x ^^^ s.reg y)).advance

/-- `8xy4` (R167): `V[x] <- (V[x] + V[y]) mod 256`, VF = carry out. -/
def execAddReg (x y : Reg) (s : State) : Result :=
  let a := s.reg x
  let b := s.reg y
  .next (s.setResultAndFlag x (a + b) (Flags.carry a b)).advance

/-- `8xy5` (R168): `V[x] <- (V[x] - V[y]) mod 256`, VF = no borrow. -/
def execSubReg (x y : Reg) (s : State) : Result :=
  let a := s.reg x
  let b := s.reg y
  .next (s.setResultAndFlag x (a - b) (Flags.noBorrow a b)).advance

/-- `8xy6` (R169): `V[x] <- V[x] >> 1`, VF = the old bit 0; the `y` field is ignored. -/
def execShr (x _y : Reg) (s : State) : Result :=
  let a := s.reg x
  .next (s.setResultAndFlag x (a >>> 1) (Flags.lowBit a)).advance

/-- `8xy7` (R170): `V[x] <- (V[y] - V[x]) mod 256`, VF = no borrow. -/
def execSubnReg (x y : Reg) (s : State) : Result :=
  let a := s.reg x
  let b := s.reg y
  .next (s.setResultAndFlag x (b - a) (Flags.noBorrow b a)).advance

/-- `8xyE` (R171): `V[x] <- (V[x] << 1) mod 256`, VF = the old bit 7; the `y` field is ignored. -/
def execShl (x _y : Reg) (s : State) : Result :=
  let a := s.reg x
  .next (s.setResultAndFlag x (a <<< 1) (Flags.highBit a)).advance

/-- `Cxkk` (R172): `V[x] <- draw() & kk`; the byte drawn is a free value (R173). -/
def execRnd (x : Reg) (kk : Byte) (s : State) : Result :=
  .next (s.setReg x (s.drawn &&& kk)).countDraw.advance

end Sys2Proof.Machine
end

