-- ==== Sys2Proof/Machine/Operands.lean ====
section
/-! DEFINITION. Every operand form of the spec (spec/30_encoding.md R93; the addressing mode of
spec/43_index_memory.md R190; the sprite anchor of spec/44_display.md R215; the key index of
spec/45_keypad_timers.md R230). -/

namespace Sys2Proof.Machine

/-- `zext_16(nnn)`: an absolute address, or the value of `I` (R93). -/
def immAddr (nnn : Imm12) : Word := nnn.zeroExtend 16

/-- `zext_16(V[r])` (R8). -/
def regWord (b : Byte) : Word := b.zeroExtend 16

/-- The effective address of byte `k` of a transfer: `I + k` as an unbounded integer, no wrap (R190). -/
def State.effAddr (s : State) (k : Nat) : Nat := s.i.toNat + k

/-- The range test of a transfer whose last byte has offset `last`: `I + last ≤ 0xFFF` (R65). -/
def State.spanFits (s : State) (last : Nat) : Bool := decide (s.i.toNat + last < Config.memSize)

/-- The bytes `V[0]` to `V[x]`, both included, in rising order (R195). -/
def State.regBytes (s : State) (x : Reg) : List Byte := s.v.toList.take (x.val + 1)

/-- The registers after bytes from `I` are loaded into `V[0]` to `V[x]`, both included; those above `x` unchanged (R196). -/
def State.loadedRegs (s : State) (x : Reg) : Vector Byte 16 :=
  Vector.ofFn fun r => if r ≤ x then s.readByte (s.effAddr r.val) else s.reg r

/-- The three decimal digits of a byte, hundreds first, one digit per byte (R194). -/
def decimalDigits (b : Byte) : List Byte :=
  [BitVec.ofNat 8 (b.toNat / 100), BitVec.ofNat 8 (b.toNat / 10 % 10), BitVec.ofNat 8 (b.toNat % 10)]

/-- The address of a font glyph: `zext_16(V[x]) * 5`, of the whole byte (R193). -/
def glyphAddr (b : Byte) : Word := regWord b * 5#16

/-- A key index from a register: the whole 8-bit value, `none` above 0x0F, not masked to 4 bits (R230). -/
def keyIndex (b : Byte) : Option Key := if h : b.toNat < 16 then some ⟨b.toNat, h⟩ else none

/-- The anchor column of a sprite, `V[x] mod 64` (R215). -/
def anchorCol (b : Byte) : Nat := b.toNat % 64

/-- The anchor row of a sprite, `V[y] mod 32` (R215). -/
def anchorRow (b : Byte) : Nat := b.toNat % 32

end Sys2Proof.Machine
end

