-- ==== Sys2Proof/Machine/Control.lean ====
section
/-! DEFINITION. The control transfer instructions (spec/41_control_flow.md R140 to R149). `PC` is the address of the
instruction being executed, and each meaning sets it once (R123). -/

namespace Sys2Proof.Machine

/-- `00EE` (R141): pop the newest return address into `PC`; StackUnderflow when the stack is empty. -/
def execRet (s : State) : Result :=
  match s.pop with
  | none => faultOn .stackUnderflow .ret s
  | some (target, s') => .next (s'.setPc target)

/-- `1nnn` (R142): `PC <- zext_16(nnn)`. -/
def execJp (nnn : Imm12) (s : State) : Result := .next (s.setPc (immAddr nnn))

/-- `2nnn` (R143): push `PC + 2`, then `PC <- zext_16(nnn)`; StackOverflow when the stack is full. -/
def execCall (nnn : Imm12) (s : State) : Result :=
  match s.push (s.pc + 2#16) with
  | none => faultOn .stackOverflow (.call nnn) s
  | some s' => .next (s'.setPc (immAddr nnn))

/-- `3xkk` (R144): skip if `V[x] == kk`. -/
def execSeImm (x : Reg) (kk : Byte) (s : State) : Result := .next (s.skipIf (s.reg x == kk))

/-- `4xkk` (R145): skip if `V[x] != kk`. -/
def execSneImm (x : Reg) (kk : Byte) (s : State) : Result := .next (s.skipIf (s.reg x != kk))

/-- `5xy0` (R146): skip if `V[x] == V[y]`. -/
def execSeReg (x y : Reg) (s : State) : Result := .next (s.skipIf (s.reg x == s.reg y))

/-- `9xy0` (R147): skip if `V[x] != V[y]`. -/
def execSneReg (x y : Reg) (s : State) : Result := .next (s.skipIf (s.reg x != s.reg y))

/-- `Bnnn` (R148): `PC <- (zext_16(V[0]) + zext_16(nnn)) mod 65536`, not reduced to 12 bits. -/
def execJpV0 (nnn : Imm12) (s : State) : Result := .next (s.setPc (regWord (s.reg 0) + immAddr nnn))

end Sys2Proof.Machine
end

