-- ==== Sys2Proof/Machine/Display.lean ====
section
/-! DEFINITION. The display instructions (spec/44_display.md R210 to R215). The blit is written as R212's two loops:
bit by bit, row by row, clipped at the right and bottom edges. -/

namespace Sys2Proof.Machine

/-- What a blit has done so far: the frame buffer, and whether a set cell was met (R212, R213). -/
abbrev Blit := FrameBuffer × Bool

/-- One bit of a sprite row (R212): bit `7 - col` of `b`, drawn at column `x0 + col` of row `py`. A bit that is 0 or
that falls past column 63 touches no cell. -/
def blitBit (b : Byte) (x0 py : Nat) (acc : Blit) (col : Nat) : Blit :=
  let px := x0 + col
  if b.getLsbD (7 - col) && decide (px ≤ 63) then
    (FrameBuffer.toggle acc.1 px py, acc.2 || FrameBuffer.cell acc.1 px py)
  else acc

/-- One row of a sprite (R212): its eight bits, the most significant first; a row past row 31 is clipped whole. -/
def blitRow (b : Byte) (x0 py : Nat) (acc : Blit) : Blit :=
  if py ≤ 31 then (List.range 8).foldl (blitBit b x0 py) acc else acc

/-- The sprite whose row `r` is `bytes r`, `n` rows, with its top left bit at column `x0` of row `y0` (R212). -/
def blitSprite (bytes : Nat → Byte) (x0 y0 n : Nat) (fb : FrameBuffer) : Blit :=
  (List.range n).foldl (fun acc row => blitRow (bytes row) x0 (y0 + row) acc) (fb, false)

/-- The range test of `Dxyn`: `n = 0` reads nothing and cannot fault; else `I + n - 1 ≤ 0xFFF` (R65, R212). -/
def State.spriteFits (s : State) (n : Nat) : Bool := n == 0 || s.spanFits (n - 1)

/-- The sprite of a `Dxyn` drawn on the frame buffer of `s`, anchored at `(V[x] mod 64, V[y] mod 32)` (R212, R215). -/
def State.blit (s : State) (x y : Reg) (n : Nibble) : Blit :=
  blitSprite (fun row => s.readByte (s.effAddr row)) (anchorCol (s.reg x)) (anchorRow (s.reg y)) n.toNat s.fb

/-- `00E0` (R211): every cell to 0, `DIRTY <- 1`. -/
def execCls (s : State) : Result := .next ((s.setFb FrameBuffer.clear).setDirty true).advance

/-- `Dxyn` (R212): XOR the sprite at `I` into the frame buffer, VF = collision, `DIRTY <- 1`. -/
def execDrw (x y : Reg) (n : Nibble) (s : State) : Result :=
  if s.spriteFits n.toNat then
    let drawn := s.blit x y n
    .next (((s.setFb drawn.1).setReg vf (Flags.ofBool drawn.2)).setDirty true).advance
  else faultOn .memoryOutOfRange (.drw x y n) s

end Sys2Proof.Machine
end

