-- ==== Sys2Proof/Machine/Index.lean ====
section
/-! DEFINITION. Address register and memory transfer instructions (spec/43_index_memory.md R190 to R197). The span of a
transfer is tested before anything is read or written, and `I` is never changed by one (R65, R190). -/

namespace Sys2Proof.Machine

/-- `Annn` (R191): `I <- zext_16(nnn)`. -/
def execLdI (nnn : Imm12) (s : State) : Result := .next (s.setI (immAddr nnn)).advance

/-- `Fx1E` (R192): `I <- (I + zext_16(V[x])) mod 65536`, no flag, no fault. -/
def execAddI (x : Reg) (s : State) : Result := .next (s.setI (s.i + regWord (s.reg x))).advance

/-- `Fx29` (R193): `I <- zext_16(V[x]) * 5`. -/
def execLdF (x : Reg) (s : State) : Result := .next (s.setI (glyphAddr (s.reg x))).advance

/-- `Fx33` (R194): the three decimal digits of `V[x]` to `M[I]`, `M[I+1]`, `M[I+2]`. -/
def execLdB (x : Reg) (s : State) : Result :=
  if s.spanFits 2 then .next (s.storeBytes (s.effAddr 0) (decimalDigits (s.reg x))).advance
  else faultOn .memoryOutOfRange (.ldB x) s

/-- `Fx55` (R195): `V[0]` to `V[x]` to `M[I]` to `M[I+x]`. -/
def execStoreRegs (x : Reg) (s : State) : Result :=
  if s.spanFits x.val then .next (s.storeBytes (s.effAddr 0) (s.regBytes x)).advance
  else faultOn .memoryOutOfRange (.storeRegs x) s

/-- `Fx65` (R196): `M[I]` to `M[I+x]` to `V[0]` to `V[x]`. -/
def execLoadRegs (x : Reg) (s : State) : Result :=
  if s.spanFits x.val then .next (State.advance { s with v := s.loadedRegs x })
  else faultOn .memoryOutOfRange (.loadRegs x) s

end Sys2Proof.Machine
end

