-- ==== Sys2Proof/Machine/Keypad.lean ====
section
/-! DEFINITION. The keypad and timer instructions (spec/45_keypad_timers.md R230 to R237). The second half of `Fx0A`
(R235) is the host's KeyPress, in Machine/HostOps.lean. -/

namespace Sys2Proof.Machine

/-- `Ex9E` (R231): skip if the key `V[x]` is pressed; KeyIndexOutOfRange when `V[x] > 0x0F`. -/
def execSkp (x : Reg) (s : State) : Result :=
  match keyIndex (s.reg x) with
  | none => faultOn .keyIndexOutOfRange (.skp x) s
  | some k => .next (s.skipIf (s.key k))

/-- `ExA1` (R232): skip if the key `V[x]` is not pressed; KeyIndexOutOfRange when `V[x] > 0x0F`. -/
def execSknp (x : Reg) (s : State) : Result :=
  match keyIndex (s.reg x) with
  | none => faultOn .keyIndexOutOfRange (.sknp x) s
  | some k => .next (s.skipIf (!s.key k))

/-- `Fx07` (R233): `V[x] <- DT`. -/
def execLdVxDT (x : Reg) (s : State) : Result := .next (s.setReg x s.dt).advance

/-- `Fx0A`, first half (R234): `RUN <- AwaitingKey(x)`; `PC` and everything else unchanged. -/
def execLdVxK (x : Reg) (s : State) : Result := .next (s.setRun (.awaitingKey x))

/-- `Fx15` (R236): `DT <- V[x]`. -/
def execLdDTVx (x : Reg) (s : State) : Result := .next (s.setDT (s.reg x)).advance

/-- `Fx18` (R237): `ST <- V[x]`. -/
def execLdSTVx (x : Reg) (s : State) : Result := .next (s.setST (s.reg x)).advance

end Sys2Proof.Machine
end

