-- ==== Sys2Proof/Machine/Cycle.lean ====
section
/-! DEFINITION. The cycle (spec/40_cycle.md R120): fetch, decode, execute, and what it does outside `Running`. -/

namespace Sys2Proof.Machine

/-- The cycle in `Running` (R120): FetchOutOfRange with `op` 0x0000 when the fetch leaves the bank (R121), the report
and the advance for an invalid opcode (R124), else the decoded instruction's meaning. -/
def cycleRunning (s : State) : Result :=
  match s.fetch with
  | none => .next (s.raise .fetchOutOfRange 0x0000#16)
  | some op =>
    match decode op with
    | .invalid _ => .next (s.skipInvalid op)
    | .insn i => exec i s

/-- One `Cycle` (R120): in `AwaitingKey` and in `Faulted` it changes nothing (R125, R126). The run state it returns to
the host is `run` of the next state (R263). -/
def cycle (s : State) : Result :=
  match s.run with
  | .running => cycleRunning s
  | .awaitingKey _ => .next s
  | .faulted => .next s

/-- Where the next fetch finds its word, for placing one: `PC`, or the program's start where `PC` is no address a word
can be fetched from (R121). -/
def State.placePc (s : State) : Word :=
  if s.pc.toNat + 1 < Config.memSize then s.pc else Config.progBase

/-- The state in which the next cycle fetches `op`: the word stored high byte first at `PC` (R61), the core `Running`
with no fault. From reset only memory changes (notes/assumptions/8.md). -/
def State.placeWord (s : State) (op : Word) : State :=
  { s with
    pc := s.placePc
    run := .running
    fault := none
    mem := Memory.writeBytes s.mem s.placePc.toNat [highByte op, lowByte op] }

end Sys2Proof.Machine
end

