-- ==== Sys2Proof/Machine/Step.lean ====
section
/-! DEFINITION. One step of the machine is one `Cycle` (spec/40_cycle.md R120; notes/assumptions/7.md). -/

namespace Sys2Proof.Machine

/-- One step: one `Cycle` of the core, atomic (R120, R127). -/
def step (s : State) : Host.Outcome State Fault Refusal := cycle s

/-- `s` with the word `w` of the opcode table placed where `step` fetches its next instruction. -/
def State.withFetchWord (s : State) (nbits w : Nat) : State := s.placeWord (tableWord nbits w)

end Sys2Proof.Machine
end

