-- ==== Sys2Proof/Machine/HostOps.lean ====
section
/-! DEFINITION. The host operations (spec/60_exceptions.md R262 to R268), which together with `Cycle` are the whole
transition system, and the read views (spec/10_state.md R42). Each operation is atomic (spec/40_cycle.md R127). -/

namespace Sys2Proof.Machine

/-- Reset(ROM) (R290): the state of R41, all 4096 bytes written, the font loaded at 0x000 and the program at 0x200.
The output trace goes on, the next draw is a fresh one, and STACK_DEPTH is the machine's (notes/assumptions/1.md, 3.md,
6.md): none of them is state of the core. -/
def State.afterReset (s : State) (glyphs : Vector Byte 80) (rom : List Byte) : State :=
  { State.reset with
    mem := Memory.writeBytes (Memory.writeBytes State.reset.mem 0x000 glyphs.toList) Config.progBase.toNat rom
    reports := s.reports
    draws := s.draws
    stackDepth := s.stackDepth }

/-- Reset(ROM) (R262, R290): allowed in every run state; a ROM longer than 3584 bytes is refused, no state changes (R293). -/
def hostReset (glyphs : Vector Byte 80) (rom : List Byte) (s : State) : Result :=
  if romFits rom then .next (s.afterReset glyphs rom) else .refused .romTooLong

/-- A timer counted down by one, floored at 0 (R264). -/
def countDown (b : Byte) : Byte := if b.toNat > 0 then b - 1#8 else b

/-- TimerTick (R264): in `Running` both timers count down; in `AwaitingKey` and `Faulted` nothing changes. -/
def hostTimerTick (s : State) : Result :=
  match s.run with
  | .running => .next ((s.setDT (countDown s.dt)).setST (countDown s.st))
  | .awaitingKey _ => .next s
  | .faulted => .next s

/-- KeyPress(k) (R265): the flag is set; in `AwaitingKey(x)` it completes the `Fx0A` as well: `V[x] <- k`,
`PC <- PC + 2`, `RUN <- Running` (R235). -/
def hostKeyPress (k : Key) (s : State) : Result :=
  match s.run with
  | .awaitingKey x => .next ((((s.setKey k true).setReg x (BitVec.ofNat 8 k.val)).advance).setRun .running)
  | .running => .next (s.setKey k true)
  | .faulted => .next (s.setKey k true)

/-- KeyRelease(k) (R266): the flag is cleared and nothing else, in any run state. -/
def hostKeyRelease (k : Key) (s : State) : Result := .next (s.setKey k false)

/-- ClearDirty (R267): `DIRTY <- 0` and nothing else, in any run state. -/
def hostClearDirty (s : State) : Result := .next (s.setDirty false)

/-- The six operations of the machine (R268), Reset with the FONT of R6 and the ROM. -/
inductive HostOp where
  /-- Reset(ROM) (R262); `glyphs` is the parameter FONT (R290). -/
  | reset (glyphs : Vector Byte 80) (rom : List Byte)
  /-- The Cycle request (R263). -/
  | cycle
  /-- TimerTick (R264). -/
  | timerTick
  /-- KeyPress(k) (R265). -/
  | keyPress (k : Key)
  /-- KeyRelease(k) (R266). -/
  | keyRelease (k : Key)
  /-- ClearDirty (R267). -/
  | clearDirty
  deriving DecidableEq, Repr

/-- One operation (R262 to R267). -/
def perform (op : HostOp) (s : State) : Result :=
  match op with
  | .reset glyphs rom => hostReset glyphs rom s
  | .cycle => cycle s
  | .timerTick => hostTimerTick s
  | .keyPress k => hostKeyPress k s
  | .keyRelease k => hostKeyRelease k s
  | .clearDirty => hostClearDirty s

/-- The state after one operation; a refused one is not performed and leaves the state as it was (R293). -/
def performed (op : HostOp) (s : State) : State :=
  match perform op s with
  | .next t => t
  | .fault _ => s
  | .refused _ => s

/-- An execution: whole operations in the host's order, any order and any number (R127, R268). -/
def hostRun (ops : List HostOp) (s : State) : State := ops.foldl (fun t op => performed op t) s

/-! ## The read views (R42): none of them changes any state -/

/-- The diagnostics snapshot: all 16 general registers, `I`, `PC`, `DT` and `ST` (R42, R273). -/
structure Diagnostics where
  v : Vector Byte 16
  i : Word
  pc : Word
  dt : Byte
  st : Byte
  deriving DecidableEq, Repr

/-- The diagnostics surface (R42, R273). -/
def State.diagnostics (s : State) : Diagnostics := ⟨s.v, s.i, s.pc, s.dt, s.st⟩

/-- The frame buffer's linear view: the cell of index `y * 64 + x` is `FB[x][y]` (R34). -/
def State.linearCell (s : State) (index : Nat) : Bool := FrameBuffer.cell s.fb (index % 64) (index / 64)

end Sys2Proof.Machine
end

