-- ==== Sys2Proof/Safety.lean ====
section
/-! DEFINITION. The terms claims are made in: what is the same in two states (a frame), what an instruction may write
by the table of spec/10_state.md R20, the invariants of the machine, and what a safe run is. -/

namespace Sys2Proof.Machine

/-- The pieces of state, one name per field of `State`. -/
inductive Piece where
  | v | i | pc | dt | st | stack | mem | fb | dirty | keys | run | fault | reports | draws | stackDepth
  deriving DecidableEq, Repr

/-- The two states agree on a piece of state: every register, every byte of memory, every cell and every key reads as
before. -/
def Piece.Same (f : Piece) (s t : State) : Prop :=
  match f with
  | .v => ∀ r : Reg, t.reg r = s.reg r
  | .i => t.i = s.i
  | .pc => t.pc = s.pc
  | .dt => t.dt = s.dt
  | .st => t.st = s.st
  | .stack => t.stack = s.stack
  | .mem => ∀ a : Nat, t.readByte a = s.readByte a
  | .fb => ∀ x y : Nat, FrameBuffer.cell t.fb x y = FrameBuffer.cell s.fb x y
  | .dirty => t.dirty = s.dirty
  | .keys => ∀ k : Key, t.key k = s.key k
  | .run => t.run = s.run
  | .fault => t.fault = s.fault
  | .reports => t.reports = s.reports
  | .draws => t.draws = s.draws
  | .stackDepth => t.stackDepth = s.stackDepth

/-- Nothing but the listed pieces of state differs between the two states. -/
def Frame (written : List Piece) (s t : State) : Prop := ∀ f : Piece, f ∉ written → f.Same s t

/-- `s` took the fault `c` with the word `op`, and `t` is what it left: `FAULT` and `RUN` written, nothing else (R256). -/
def Faults (c : Cause) (op : Word) (s t : State) : Prop :=
  t.fault = some ⟨c, s.pc, op⟩ ∧ t.run = .faulted ∧ Frame [.fault, .run] s t

/-- `PC` has advanced by `k` bytes, modulo 65536 (R26, R123). -/
def PcAdvanced (k : Nat) (s t : State) : Prop := t.pc.toNat = (s.pc.toNat + k) % 65536

/-- Every general register but `r` is unchanged. -/
def OthersKept (r : Reg) (s t : State) : Prop := ∀ q : Reg, q ≠ r → t.reg q = s.reg q

/-- Every general register but `x` and VF is unchanged. -/
def OthersKeptButVF (x : Reg) (s t : State) : Prop := ∀ q : Reg, q ≠ x → q ≠ vf → t.reg q = s.reg q

/-- What an instruction may write when it completes without a fault: the column "written by" of R20, with the model's
own draw counter for `Cxkk` (R23, R26, R140, R160, R190, R210, R230). -/
def writtenBy : Instr → List Piece
  | .cls => [.pc, .fb, .dirty]
  | .ret => [.pc, .stack]
  | .jp _ => [.pc]
  | .call _ => [.pc, .stack]
  | .seImm _ _ => [.pc]
  | .sneImm _ _ => [.pc]
  | .seReg _ _ => [.pc]
  | .ldImm _ _ => [.pc, .v]
  | .addImm _ _ => [.pc, .v]
  | .ldReg _ _ => [.pc, .v]
  | .orReg _ _ => [.pc, .v]
  | .andReg _ _ => [.pc, .v]
  | .xorReg _ _ => [.pc, .v]
  | .addReg _ _ => [.pc, .v]
  | .subReg _ _ => [.pc, .v]
  | .shr _ _ => [.pc, .v]
  | .subnReg _ _ => [.pc, .v]
  | .shl _ _ => [.pc, .v]
  | .sneReg _ _ => [.pc]
  | .ldI _ => [.pc, .i]
  | .jpV0 _ => [.pc]
  | .rnd _ _ => [.pc, .v, .draws]
  | .drw _ _ _ => [.pc, .v, .fb, .dirty]
  | .skp _ => [.pc]
  | .sknp _ => [.pc]
  | .ldVxDT _ => [.pc, .v]
  | .ldVxK _ => [.run]
  | .ldDTVx _ => [.pc, .dt]
  | .ldSTVx _ => [.pc, .st]
  | .addI _ => [.pc, .i]
  | .ldF _ => [.pc, .i]
  | .ldB _ => [.pc, .mem]
  | .storeRegs _ => [.pc, .mem]
  | .loadRegs _ => [.pc, .v]

/-- The one fault an instruction can raise: eight instructions have one, the other 26 have none (R251, R252, R253). -/
def causeOf : Instr → Option Cause
  | .cls => none
  | .ret => some .stackUnderflow
  | .jp _ => none
  | .call _ => some .stackOverflow
  | .seImm _ _ => none
  | .sneImm _ _ => none
  | .seReg _ _ => none
  | .ldImm _ _ => none
  | .addImm _ _ => none
  | .ldReg _ _ => none
  | .orReg _ _ => none
  | .andReg _ _ => none
  | .xorReg _ _ => none
  | .addReg _ _ => none
  | .subReg _ _ => none
  | .shr _ _ => none
  | .subnReg _ _ => none
  | .shl _ _ => none
  | .sneReg _ _ => none
  | .ldI _ => none
  | .jpV0 _ => none
  | .rnd _ _ => none
  | .drw _ _ _ => some .memoryOutOfRange
  | .skp _ => some .keyIndexOutOfRange
  | .sknp _ => some .keyIndexOutOfRange
  | .ldVxDT _ => none
  | .ldVxK _ => none
  | .ldDTVx _ => none
  | .ldSTVx _ => none
  | .addI _ => none
  | .ldF _ => none
  | .ldB _ => some .memoryOutOfRange
  | .storeRegs _ => some .memoryOutOfRange
  | .loadRegs _ => some .memoryOutOfRange

/-- The general registers an instruction may write when it completes (the column "writes" of R23). -/
def writesReg : Instr → Reg → Bool
  | .ldImm x _, r => r == x
  | .addImm x _, r => r == x
  | .ldReg x _, r => r == x
  | .orReg x _, r => r == x
  | .andReg x _, r => r == x
  | .xorReg x _, r => r == x
  | .addReg x _, r => r == x || r == vf
  | .subReg x _, r => r == x || r == vf
  | .shr x _, r => r == x || r == vf
  | .subnReg x _, r => r == x || r == vf
  | .shl x _, r => r == x || r == vf
  | .rnd x _, r => r == x
  | .drw _ _ _, r => r == vf
  | .ldVxDT x, r => r == x
  | .loadRegs x, r => decide (r ≤ x)
  | .cls, _ => false
  | .ret, _ => false
  | .jp _, _ => false
  | .call _, _ => false
  | .seImm _ _, _ => false
  | .sneImm _ _, _ => false
  | .seReg _ _, _ => false
  | .sneReg _ _, _ => false
  | .ldI _, _ => false
  | .jpV0 _, _ => false
  | .skp _, _ => false
  | .sknp _, _ => false
  | .ldVxK _, _ => false
  | .ldDTVx _, _ => false
  | .ldSTVx _, _ => false
  | .addI _, _ => false
  | .ldF _, _ => false
  | .ldB _, _ => false
  | .storeRegs _, _ => false

/-! ## The sprite of a draw -/

/-- Whether a sprite bit equal to 1 lands, unclipped, on the cell at column `x`, row `y`: a touched cell (R212, R213).
The sprite's row `r` is `bytes r`, its anchor is column `x0` and row `y0`, and it has `n` rows. -/
def spriteTouches (bytes : Nat → Byte) (x0 y0 n x y : Nat) : Bool :=
  decide (x ≤ 63) && decide (y ≤ 31) && decide (y0 ≤ y) && decide (y < y0 + n) && decide (x0 ≤ x) &&
    decide (x < x0 + 8) && (bytes (y - y0)).getLsbD (7 - (x - x0))

/-- The cells a `Dxyn` touches in `s`: anchor `(V[x] mod 64, V[y] mod 32)`, rows from `I` (R212, R215). -/
def State.touches (s : State) (x y : Reg) (n : Nibble) (col row : Nat) : Bool :=
  spriteTouches (fun r => s.readByte (s.i.toNat + r)) ((s.reg x).toNat % 64) ((s.reg y).toNat % 32) n.toNat col row

/-! ## Invariants -/

/-- `FAULT` is non-empty exactly when `RUN = Faulted` (R38). -/
def FaultMatchesRun (s : State) : Prop := s.fault.isSome = true ↔ s.run = .faulted

/-- The stack holds at most STACK_DEPTH entries, whatever STACK_DEPTH is (R6, R30). -/
def StackBounded (s : State) : Prop := s.stack.length ≤ s.stackDepth

/-- `PC` and the return addresses stay in the range R27, R141 and R148 give: `PC` is at most 0x10FE, a return address at
most 0x1000, and a key wait is at an address a word was fetched from. -/
def PcBounded (s : State) : Prop :=
  s.pc.toNat ≤ 0x10FE ∧ (∀ w ∈ s.stack, w.toNat ≤ 0x1000) ∧ (∀ x, s.run = .awaitingKey x → s.pc.toNat ≤ 0xFFE)

/-! ## Safe runs -/

/-- A run has been clean so far: the core has not faulted and no invalid opcode was reported (R256; U9 of
spec/93_implementation_defined.md asks a claim of correct running to take "no InvalidOpcode event" in). -/
def Clean (s : State) : Prop := s.run ≠ .faulted ∧ s.reports = []

/-- The first `k` cycles from `s` stay clean. -/
def CleanFor : Nat → State → Prop
  | 0, s => Clean s
  | k + 1, s => Clean s ∧ ∃ t, step s = .next t ∧ CleanFor k t

end Sys2Proof.Machine
end

