-- ==== Sys2Proof/Certificates/Slice0/Obligations.lean ====
section
/-! DEFINITION. The statements about the machine, from the numbered rules of the spec. `Frame ps s t` says that nothing
but the pieces of state `ps` differs between `s` and `t`, every byte of memory and every cell read one by one. Values are
given as numbers, as the rules give them. Where a rule rests on a decision the spec marks as its own
(spec/92_eei_decisions.md), or a clause on a choice of the model, the docstring names it: D<n>, or the log entry.
STACK_DEPTH is the field `stackDepth` of a state (notes/assumptions/1.md), so a statement for every state holds for
every value of that parameter. -/

open Sys2Proof Sys2Proof.Machine

/-! ## Encoding -/

/-- Words written out from the patterns of R96 decode to the instructions they stand for, and words of each class of R97
are rejected by that class (how strict the decoder is: D16). -/
def Obligations.SpecWordsDecode : Prop :=
  decode 0x00E0#16 = .insn .cls ∧ decode 0x00EE#16 = .insn .ret ∧
  decode 0x1ABC#16 = .insn (.jp 0xABC#12) ∧ decode 0x3342#16 = .insn (.seImm 3 0x42#8) ∧
  decode 0x6A05#16 = .insn (.ldImm 0xA 0x05#8) ∧ decode 0x81F4#16 = .insn (.addReg 1 0xF) ∧
  decode 0x8126#16 = .insn (.shr 1 2) ∧ decode 0xA20C#16 = .insn (.ldI 0x20C#12) ∧
  decode 0xD12A#16 = .insn (.drw 1 2 0xA#4) ∧ decode 0xE19E#16 = .insn (.skp 1) ∧
  decode 0xF265#16 = .insn (.loadRegs 2) ∧
  decode 0x01E0#16 = .invalid .invalidZero ∧ decode 0x5121#16 = .invalid .invalidFive ∧
  decode 0x812D#16 = .invalid .invalidEight ∧ decode 0x9121#16 = .invalid .invalidNine ∧
  decode 0xE1A0#16 = .invalid .invalidE ∧ decode 0xF134#16 = .invalid .invalidF

/-- R91, R92, R94: decoding the word of any instruction, with every operand at every value, gives it back. -/
def Obligations.DecodeOfEncode : Prop := ∀ i : Instr, decode (encode i) = .insn i

/-- R94, R95: an instruction is decoded from its own word only, so no bit of a word is dropped. -/
def Obligations.EncodeOfDecode : Prop := ∀ (op : Word) (i : Instr), decode op = .insn i → encode i = op

/-- R95, R97: the decoder's dispatch rejects exactly the words that match no row of the opcode map (D16). -/
def Obligations.InvalidExactlyOffTheMap : Prop :=
  ∀ op : Word, (∃ why, decode op = .invalid why) ↔ wordValid op = false

/-- R96: the rows of the opcode map are disjoint. -/
def Obligations.OpcodeRowsDisjoint : Prop :=
  ∀ (op : Word) (r q : OpcodeRow), r ∈ opcodeMap → q ∈ opcodeMap → r.selects op = true → q.selects op = true → r = q

/-! ## The cycle -/

/-- R120, R121: the bytes at `PC`, the high byte first, decode to an instruction: the step is that instruction's meaning,
with nothing around it. -/
def Obligations.StepRunsDecodedInstruction : Prop :=
  ∀ (s : State) (i : Instr), s.run = .running → s.pc.toNat ≤ 0xFFE →
    decode (joinBytes (s.readByte s.pc.toNat) (s.readByte (s.pc.toNat + 1))) = .insn i → step s = exec i s

/-- R121: a running core with `PC` at most 0xFFE fetches the two bytes at `PC`, the lower address high, whatever the
parity of `PC`; beyond that it faults with `op` 0x0000, and nothing else changes (D6). -/
def Obligations.FetchOrFault : Prop :=
  ∀ s : State, s.run = .running →
    (s.pc.toNat ≤ 0xFFE → ∃ op, s.fetch = some op ∧
      op.toNat = (s.readByte s.pc.toNat).toNat * 256 + (s.readByte (s.pc.toNat + 1)).toNat) ∧
    (0xFFF ≤ s.pc.toNat → ∃ t, step s = .next t ∧ Faults .fetchOutOfRange 0x0000#16 s t)

/-- R124: an invalid opcode is reported with its address and word, `PC` advances by 2, nothing else changes (D15; that the
report is appended to a field of the state is the model's form of it, notes/assumptions/6.md). -/
def Obligations.InvalidOpcodeIsReportedAndSkipped : Prop :=
  ∀ (s : State) (op : Word), s.run = .running → s.pc.toNat ≤ 0xFFE →
    op = joinBytes (s.readByte s.pc.toNat) (s.readByte (s.pc.toNat + 1)) → wordValid op = false →
    ∃ t, step s = .next t ∧ t.reports = s.reports ++ [⟨s.pc, op⟩] ∧ PcAdvanced 2 s t ∧ Frame [.pc, .reports] s t

/-- R125: a cycle in `AwaitingKey` changes nothing (D13). -/
def Obligations.CycleHoldsWhileAwaitingKey : Prop :=
  ∀ (s : State) (x : Reg), s.run = .awaitingKey x → step s = .next s ∧ perform .cycle s = .next s

/-- R126: a cycle in `Faulted` changes nothing (D21). -/
def Obligations.CycleHoldsWhenFaulted : Prop :=
  ∀ s : State, s.run = .faulted → step s = .next s ∧ perform .cycle s = .next s

/-- R120, R252: a step always answers a next state; no state and no word stops the model. That a fault is a next state is
the spec's decision D21 and the model's choice (notes/assumptions/5.md). -/
def Obligations.StepAlwaysAnswersNext : Prop := ∀ s : State, ∃ t, step s = .next t

/-- R61, R121: the word of an instruction, placed where the next cycle fetches, is fetched and run, whatever the state
was before (what placing a word changes is the model's choice, notes/assumptions/8.md). -/
def Obligations.PlacedWordIsFetchedAndRun : Prop :=
  ∀ (i : Instr) (s : State), s.mem.wf = true →
    step (s.withFetchWord 16 (encode i).toNat) = exec i (s.withFetchWord 16 (encode i).toNat)

/-! ## Control transfer -/

/-- R142: `1nnn` sets `PC` to `nnn` and nothing else. -/
def Obligations.JumpSetsPc : Prop :=
  ∀ (nnn : Imm12) (s : State), (encode (.jp nnn)).toNat = 0x1000 + nnn.toNat ∧
    ∃ t, exec (.jp nnn) s = .next t ∧ t.pc.toNat = nnn.toNat ∧ Frame [.pc] s t

/-- R148: `Bnnn` sets `PC` to `V0 + nnn`, not reduced to 12 bits, and nothing else (D26). -/
def Obligations.JumpWithOffsetSetsPc : Prop :=
  ∀ (nnn : Imm12) (s : State), (encode (.jpV0 nnn)).toNat = 0xB000 + nnn.toNat ∧
    ∃ t, exec (.jpV0 nnn) s = .next t ∧ t.pc.toNat = (s.reg 0).toNat + nnn.toNat ∧ Frame [.pc] s t

/-- R143, R31: `2nnn` with room on the stack pushes the address of the next instruction as the newest entry and jumps; on
a full stack it raises StackOverflow and changes neither (D3, D7), whatever STACK_DEPTH
is (R6). The newest entry is the head of the list (notes/assumptions/4.md). -/
def Obligations.CallPushesOrFaults : Prop :=
  ∀ (nnn : Imm12) (s : State), (encode (.call nnn)).toNat = 0x2000 + nnn.toNat ∧
    (s.stack.length < s.stackDepth →
      ∃ t w, exec (.call nnn) s = .next t ∧ t.stack = w :: s.stack ∧ w.toNat = (s.pc.toNat + 2) % 65536 ∧
        t.pc.toNat = nnn.toNat ∧ Frame [.pc, .stack] s t) ∧
    (s.stackDepth ≤ s.stack.length →
      ∃ t, exec (.call nnn) s = .next t ∧ Faults .stackOverflow (encode (.call nnn)) s t)

/-- R141: `00EE` pops the newest return address into `PC`; on an empty stack it raises StackUnderflow (D4, D7). -/
def Obligations.ReturnPopsOrFaults : Prop :=
  (encode .ret).toNat = 0x00EE ∧
  (∀ (s : State) (w : Word) (rest : List Word), s.stack = w :: rest →
    ∃ t, exec .ret s = .next t ∧ t.pc = w ∧ t.stack = rest ∧ Frame [.pc, .stack] s t) ∧
  (∀ s : State, s.stack = [] → ∃ t, exec .ret s = .next t ∧ Faults .stackUnderflow 0x00EE#16 s t)

/-- R149: a `2nnn` followed by an `00EE` leaves `PC` at the instruction after the call, and everything else as it was (D7). -/
def Obligations.CallThenReturnRoundTrip : Prop :=
  ∀ (nnn : Imm12) (s : State), s.stack.length < s.stackDepth →
    ∃ t u, exec (.call nnn) s = .next t ∧ exec .ret t = .next u ∧ PcAdvanced 2 s u ∧ Frame [.pc] s u

/-- R144, R145: the skips on an immediate. -/
def Obligations.SkipsOnImmediate : Prop :=
  ∀ (x : Reg) (kk : Byte) (s : State),
    (encode (.seImm x kk)).toNat = 0x3000 + x.val * 256 + kk.toNat ∧
    (encode (.sneImm x kk)).toNat = 0x4000 + x.val * 256 + kk.toNat ∧
    (∃ t, exec (.seImm x kk) s = .next t ∧ PcAdvanced (if (s.reg x).toNat = kk.toNat then 4 else 2) s t ∧
      Frame [.pc] s t) ∧
    (∃ t, exec (.sneImm x kk) s = .next t ∧ PcAdvanced (if (s.reg x).toNat ≠ kk.toNat then 4 else 2) s t ∧
      Frame [.pc] s t)

/-- R146, R147: the skips on two registers; with a low nibble other than 0 the words are invalid (R95, D16). -/
def Obligations.SkipsOnRegisters : Prop :=
  ∀ (x y : Reg) (s : State),
    (encode (.seReg x y)).toNat = 0x5000 + x.val * 256 + y.val * 16 ∧
    (encode (.sneReg x y)).toNat = 0x9000 + x.val * 256 + y.val * 16 ∧
    (∀ n : Nat, 0 < n → n < 16 →
      decode (BitVec.ofNat 16 (0x5000 + x.val * 256 + y.val * 16 + n)) = .invalid .invalidFive ∧
      decode (BitVec.ofNat 16 (0x9000 + x.val * 256 + y.val * 16 + n)) = .invalid .invalidNine) ∧
    (∃ t, exec (.seReg x y) s = .next t ∧ PcAdvanced (if (s.reg x).toNat = (s.reg y).toNat then 4 else 2) s t ∧
      Frame [.pc] s t) ∧
    (∃ t, exec (.sneReg x y) s = .next t ∧ PcAdvanced (if (s.reg x).toNat ≠ (s.reg y).toNat then 4 else 2) s t ∧
      Frame [.pc] s t)

/-! ## Load, arithmetic, logic, shift, random -/

/-- R161, R162: load immediate, and add immediate modulo 256; VF is written only when `x` names it. -/
def Obligations.LoadAndAddImmediate : Prop :=
  ∀ (x : Reg) (kk : Byte) (s : State),
    (encode (.ldImm x kk)).toNat = 0x6000 + x.val * 256 + kk.toNat ∧
    (encode (.addImm x kk)).toNat = 0x7000 + x.val * 256 + kk.toNat ∧
    (∃ t, exec (.ldImm x kk) s = .next t ∧ t.reg x = kk ∧ OthersKept x s t ∧ PcAdvanced 2 s t ∧ Frame [.pc, .v] s t) ∧
    (∃ t, exec (.addImm x kk) s = .next t ∧ (t.reg x).toNat = ((s.reg x).toNat + kk.toNat) % 256 ∧ OthersKept x s t ∧
      PcAdvanced 2 s t ∧ Frame [.pc, .v] s t)

/-- R163 to R166: register copy, OR, AND, XOR, bit by bit; VF is written only when `x` names it. -/
def Obligations.CopyAndLogic : Prop :=
  ∀ (x y : Reg) (s : State),
    (encode (.ldReg x y)).toNat = 0x8000 + x.val * 256 + y.val * 16 ∧
    (encode (.orReg x y)).toNat = 0x8001 + x.val * 256 + y.val * 16 ∧
    (encode (.andReg x y)).toNat = 0x8002 + x.val * 256 + y.val * 16 ∧
    (encode (.xorReg x y)).toNat = 0x8003 + x.val * 256 + y.val * 16 ∧
    (∃ t, exec (.ldReg x y) s = .next t ∧ t.reg x = s.reg y ∧ OthersKept x s t ∧ PcAdvanced 2 s t ∧
      Frame [.pc, .v] s t) ∧
    (∃ t, exec (.orReg x y) s = .next t ∧
      (∀ k, (t.reg x).getLsbD k = ((s.reg x).getLsbD k || (s.reg y).getLsbD k)) ∧ OthersKept x s t ∧ PcAdvanced 2 s t ∧
      Frame [.pc, .v] s t) ∧
    (∃ t, exec (.andReg x y) s = .next t ∧
      (∀ k, (t.reg x).getLsbD k = ((s.reg x).getLsbD k && (s.reg y).getLsbD k)) ∧ OthersKept x s t ∧ PcAdvanced 2 s t ∧
      Frame [.pc, .v] s t) ∧
    (∃ t, exec (.xorReg x y) s = .next t ∧
      (∀ k, (t.reg x).getLsbD k = ((s.reg x).getLsbD k ^^ (s.reg y).getLsbD k)) ∧ OthersKept x s t ∧ PcAdvanced 2 s t ∧
      Frame [.pc, .v] s t)

/-- R167: add modulo 256; VF is 1 exactly when the unwrapped sum exceeds 255, else 0, also when `x` is VF (D8). -/
def Obligations.AddSetsCarry : Prop :=
  ∀ (x y : Reg) (s : State), (encode (.addReg x y)).toNat = 0x8004 + x.val * 256 + y.val * 16 ∧
    ∃ t, exec (.addReg x y) s = .next t ∧
      (x ≠ vf → (t.reg x).toNat = ((s.reg x).toNat + (s.reg y).toNat) % 256) ∧
      (t.reg vf).toNat = (if (s.reg x).toNat + (s.reg y).toNat > 255 then 1 else 0) ∧
      OthersKeptButVF x s t ∧ PcAdvanced 2 s t ∧ Frame [.pc, .v] s t

/-- R168, R170: subtract and reverse subtract modulo 256; VF is 1 exactly when there is no borrow, also when
`x` is VF (D8). -/
def Obligations.SubtractSetsNoBorrow : Prop :=
  ∀ (x y : Reg) (s : State),
    (encode (.subReg x y)).toNat = 0x8005 + x.val * 256 + y.val * 16 ∧
    (encode (.subnReg x y)).toNat = 0x8007 + x.val * 256 + y.val * 16 ∧
    (∃ t, exec (.subReg x y) s = .next t ∧
      (x ≠ vf → (t.reg x).toNat = ((s.reg x).toNat + 256 - (s.reg y).toNat) % 256) ∧
      (t.reg vf).toNat = (if (s.reg x).toNat ≥ (s.reg y).toNat then 1 else 0) ∧
      OthersKeptButVF x s t ∧ PcAdvanced 2 s t ∧ Frame [.pc, .v] s t) ∧
    (∃ t, exec (.subnReg x y) s = .next t ∧
      (x ≠ vf → (t.reg x).toNat = ((s.reg y).toNat + 256 - (s.reg x).toNat) % 256) ∧
      (t.reg vf).toNat = (if (s.reg y).toNat ≥ (s.reg x).toNat then 1 else 0) ∧
      OthersKeptButVF x s t ∧ PcAdvanced 2 s t ∧ Frame [.pc, .v] s t)

/-- R169, R171: shifts by one place; VF is the bit shifted out, also when `x` is VF (D8); the `y` field is ignored. -/
def Obligations.ShiftsSetTheBitShiftedOut : Prop :=
  ∀ (x y : Reg) (s : State),
    (encode (.shr x y)).toNat = 0x8006 + x.val * 256 + y.val * 16 ∧
    (encode (.shl x y)).toNat = 0x800E + x.val * 256 + y.val * 16 ∧
    (∃ t, exec (.shr x y) s = .next t ∧ (x ≠ vf → (t.reg x).toNat = (s.reg x).toNat / 2) ∧
      (t.reg vf).toNat = (s.reg x).toNat % 2 ∧ OthersKeptButVF x s t ∧ PcAdvanced 2 s t ∧ Frame [.pc, .v] s t) ∧
    (∃ t, exec (.shl x y) s = .next t ∧ (x ≠ vf → (t.reg x).toNat = (s.reg x).toNat * 2 % 256) ∧
      (t.reg vf).toNat = (s.reg x).toNat / 128 ∧ OthersKeptButVF x s t ∧ PcAdvanced 2 s t ∧ Frame [.pc, .v] s t)

/-- R172, R173: the register receives the byte drawn, masked; each execution uses up one draw. The byte is a free value:
the statement holds for every sequence of draws. That each execution takes a fresh free byte is D20; the counter `draws`
is the model's choice (notes/assumptions/3.md). -/
def Obligations.RandomByteIsMasked : Prop :=
  ∀ (x : Reg) (kk : Byte) (s : State), (encode (.rnd x kk)).toNat = 0xC000 + x.val * 256 + kk.toNat ∧
    ∃ t, exec (.rnd x kk) s = .next t ∧
      (∀ k, (t.reg x).getLsbD k = ((Config.drawByte s.draws).getLsbD k && kk.getLsbD k)) ∧
      t.draws = s.draws + 1 ∧ OthersKept x s t ∧ PcAdvanced 2 s t ∧ Frame [.pc, .v, .draws] s t

/-! ## Address register and memory -/

/-- R191, R193: `Annn` sets `I` to `nnn`, `Fx29` to the glyph address `V[x] * 5` of the whole byte, exactly. -/
def Obligations.AddressRegisterLoads : Prop :=
  (∀ (nnn : Imm12) (s : State), (encode (.ldI nnn)).toNat = 0xA000 + nnn.toNat ∧
    ∃ t, exec (.ldI nnn) s = .next t ∧ t.i.toNat = nnn.toNat ∧ PcAdvanced 2 s t ∧ Frame [.pc, .i] s t) ∧
  (∀ (x : Reg) (s : State), (encode (.ldF x)).toNat = 0xF029 + x.val * 256 ∧
    ∃ t, exec (.ldF x) s = .next t ∧ t.i.toNat = (s.reg x).toNat * 5 ∧ PcAdvanced 2 s t ∧ Frame [.pc, .i] s t)

/-- R192: `Fx1E` adds to `I`, wrapping at 16 bits and not at 12, without a fault and without a flag (D26). -/
def Obligations.AddressRegisterAddWraps : Prop :=
  ∀ (x : Reg) (s : State), (encode (.addI x)).toNat = 0xF01E + x.val * 256 ∧
    ∃ t, exec (.addI x) s = .next t ∧ t.i.toNat = (s.i.toNat + (s.reg x).toNat) % 65536 ∧ PcAdvanced 2 s t ∧
      Frame [.pc, .i] s t

/-- R194: `Fx33` stores hundreds, tens and ones at `I`, `I+1`, `I+2` and leaves every other byte; beyond the bank it
raises MemoryOutOfRange and stores nothing (D5). -/
def Obligations.DecimalStore : Prop :=
  ∀ (x : Reg) (s : State), s.mem.wf = true →
    (encode (.ldB x)).toNat = 0xF033 + x.val * 256 ∧
    (s.i.toNat + 2 ≤ 0xFFF → ∃ t, exec (.ldB x) s = .next t ∧
      (t.readByte (s.effAddr 0)).toNat = (s.reg x).toNat / 100 ∧
      (t.readByte (s.effAddr 1)).toNat = (s.reg x).toNat / 10 % 10 ∧
      (t.readByte (s.effAddr 2)).toNat = (s.reg x).toNat % 10 ∧
      (∀ a, a < s.effAddr 0 ∨ s.effAddr 0 + 3 ≤ a → t.readByte a = s.readByte a) ∧
      PcAdvanced 2 s t ∧ Frame [.pc, .mem] s t) ∧
    (0xFFF < s.i.toNat + 2 → ∃ t, exec (.ldB x) s = .next t ∧ Faults .memoryOutOfRange (encode (.ldB x)) s t)

/-- R195: `Fx55` stores `V[k]` at `I+k` for `k = 0 .. x` and leaves every other byte; beyond the bank it raises
MemoryOutOfRange and stores nothing (D5). -/
def Obligations.RegisterStore : Prop :=
  ∀ (x : Reg) (s : State), s.mem.wf = true →
    (encode (.storeRegs x)).toNat = 0xF055 + x.val * 256 ∧
    (s.i.toNat + x.val ≤ 0xFFF → ∃ t, exec (.storeRegs x) s = .next t ∧
      (∀ k : Reg, k ≤ x → t.readByte (s.effAddr k.val) = s.reg k) ∧
      (∀ a, a < s.effAddr 0 ∨ s.effAddr 0 + (x.val + 1) ≤ a → t.readByte a = s.readByte a) ∧
      PcAdvanced 2 s t ∧ Frame [.pc, .mem] s t) ∧
    (0xFFF < s.i.toNat + x.val → ∃ t, exec (.storeRegs x) s = .next t ∧
      Faults .memoryOutOfRange (encode (.storeRegs x)) s t)

/-- R196: `Fx65` loads `V[k]` from `I+k` for `k = 0 .. x` and leaves the registers above `x`; beyond the bank it raises
MemoryOutOfRange and loads nothing (D5). -/
def Obligations.RegisterLoad : Prop :=
  ∀ (x : Reg) (s : State),
    (encode (.loadRegs x)).toNat = 0xF065 + x.val * 256 ∧
    (s.i.toNat + x.val ≤ 0xFFF → ∃ t, exec (.loadRegs x) s = .next t ∧
      (∀ k : Reg, t.reg k = if k ≤ x then s.readByte (s.i.toNat + k.val) else s.reg k) ∧
      PcAdvanced 2 s t ∧ Frame [.pc, .v] s t) ∧
    (0xFFF < s.i.toNat + x.val → ∃ t, exec (.loadRegs x) s = .next t ∧
      Faults .memoryOutOfRange (encode (.loadRegs x)) s t)

/-- R195, R196 (T4 of spec/95_test_vectors.md): whatever happened to the registers in between, an `Fx65` with the `x` and
`I` of an earlier `Fx55` restores `V0` to `Vx`. -/
def Obligations.StoreThenLoadRestoresRegisters : Prop :=
  ∀ (x : Reg) (s t : State) (regs : Vector Byte 16), s.mem.wf = true → s.i.toNat + x.val ≤ 0xFFF →
    exec (.storeRegs x) s = .next t →
    ∃ u, exec (.loadRegs x) { t with v := regs } = .next u ∧ (∀ k : Reg, k ≤ x → u.reg k = s.reg k) ∧
      (∀ k : Reg, x < k → u.reg k = regs[k])

/-- R72: two registers stored over the very next instruction are what the next fetch finds, the lower address high. -/
def Obligations.StoreIsSeenByTheNextFetch : Prop :=
  ∀ (x : Reg) (s t : State), s.mem.wf = true → s.i.toNat = s.pc.toNat + 2 → 1 ≤ x.val → s.i.toNat + x.val ≤ 0xFFF →
    exec (.storeRegs x) s = .next t → t.fetch = some (joinBytes (s.reg 0) (s.reg 1))

/-! ## Display -/

/-- R211: `00E0` clears all 2048 cells and sets `DIRTY`; VF is not written. -/
def Obligations.ClearScreen : Prop :=
  (encode .cls).toNat = 0x00E0 ∧
  ∀ s : State, ∃ t, exec .cls s = .next t ∧ (∀ x y, FrameBuffer.cell t.fb x y = false) ∧ t.dirty = true ∧
    PcAdvanced 2 s t ∧ Frame [.pc, .fb, .dirty] s t

/-- R212, R213, R214: a `Dxyn` whose bytes lie in the bank inverts exactly the touched cells, sets VF to 1 when a touched
cell was set before and to 0 otherwise, and sets `DIRTY`; one of at least one row whose bytes leave the bank raises
MemoryOutOfRange and draws nothing (the edges are D9, VF cleared without a collision D10, the range test D11). -/
def Obligations.DrawTogglesOrFaults : Prop :=
  ∀ (x y : Reg) (n : Nibble) (s : State),
    (encode (.drw x y n)).toNat = 0xD000 + x.val * 256 + y.val * 16 + n.toNat ∧
    ((n.toNat = 0 ∨ s.i.toNat + n.toNat - 1 ≤ 0xFFF) →
      ∃ t, exec (.drw x y n) s = .next t ∧
        (∀ col row, FrameBuffer.cell t.fb col row = (FrameBuffer.cell s.fb col row ^^ s.touches x y n col row)) ∧
        ((∃ col row, s.touches x y n col row = true ∧ FrameBuffer.cell s.fb col row = true) → (t.reg vf).toNat = 1) ∧
        ((∀ col row, s.touches x y n col row = true → FrameBuffer.cell s.fb col row = false) → (t.reg vf).toNat = 0) ∧
        t.dirty = true ∧ OthersKept vf s t ∧ PcAdvanced 2 s t ∧ Frame [.pc, .v, .fb, .dirty] s t) ∧
    (1 ≤ n.toNat → 0xFFF < s.i.toNat + n.toNat - 1 →
      ∃ t, exec (.drw x y n) s = .next t ∧ Faults .memoryOutOfRange (encode (.drw x y n)) s t)

/-- R215: a draw changes no cell outside the eight columns and `n` rows at and right of and below the anchor: a sprite
never reappears at the left or top edge (D9). -/
def Obligations.DrawIsClippedNotWrapped : Prop :=
  ∀ (x y : Reg) (n : Nibble) (s t : State) (col row : Nat), exec (.drw x y n) s = .next t →
    FrameBuffer.cell t.fb col row ≠ FrameBuffer.cell s.fb col row →
    col ≤ 63 ∧ row ≤ 31 ∧ (s.reg x).toNat % 64 ≤ col ∧ col ≤ (s.reg x).toNat % 64 + 7 ∧
      (s.reg y).toNat % 32 ≤ row ∧ row < (s.reg y).toNat % 32 + n.toNat

/-- R212, R214 (T7 of spec/95_test_vectors.md): the same sprite drawn twice, its anchor not in VF, restores the frame
buffer; if its touched cells were clear and there is one, VF is 0 after the first draw and 1 after the second (D9, D10). -/
def Obligations.DrawTwiceRestoresTheScreen : Prop :=
  ∀ (x y : Reg) (n : Nibble) (s : State), x ≠ vf → y ≠ vf → (n.toNat = 0 ∨ s.i.toNat + n.toNat - 1 ≤ 0xFFF) →
    ∃ t u, exec (.drw x y n) s = .next t ∧ exec (.drw x y n) t = .next u ∧
      (∀ col row, FrameBuffer.cell u.fb col row = FrameBuffer.cell s.fb col row) ∧
      ((∃ col row, s.touches x y n col row = true) →
        (∀ col row, s.touches x y n col row = true → FrameBuffer.cell s.fb col row = false) →
        (t.reg vf).toNat = 0 ∧ (u.reg vf).toNat = 1)

/-! ## Keypad and timers -/

/-- R231, R232: the key tests, for an index of 0 to 15; an index above 0x0F is not masked, it raises
KeyIndexOutOfRange (D12). -/
def Obligations.SkipsOnKeyOrFaults : Prop :=
  ∀ (x : Reg) (s : State),
    (encode (.skp x)).toNat = 0xE09E + x.val * 256 ∧ (encode (.sknp x)).toNat = 0xE0A1 + x.val * 256 ∧
    (∀ h : (s.reg x).toNat < 16,
      (∃ t, exec (.skp x) s = .next t ∧ PcAdvanced (if s.key ⟨(s.reg x).toNat, h⟩ = true then 4 else 2) s t ∧
        Frame [.pc] s t) ∧
      (∃ t, exec (.sknp x) s = .next t ∧ PcAdvanced (if s.key ⟨(s.reg x).toNat, h⟩ = false then 4 else 2) s t ∧
        Frame [.pc] s t)) ∧
    (0x0F < (s.reg x).toNat →
      (∃ t, exec (.skp x) s = .next t ∧ Faults .keyIndexOutOfRange (encode (.skp x)) s t) ∧
      (∃ t, exec (.sknp x) s = .next t ∧ Faults .keyIndexOutOfRange (encode (.sknp x)) s t))

/-- R233, R236, R237: reading `DT`, setting `DT` and `ST`. -/
def Obligations.TimerReadsAndWrites : Prop :=
  ∀ (x : Reg) (s : State),
    (encode (.ldVxDT x)).toNat = 0xF007 + x.val * 256 ∧ (encode (.ldDTVx x)).toNat = 0xF015 + x.val * 256 ∧
    (encode (.ldSTVx x)).toNat = 0xF018 + x.val * 256 ∧
    (∃ t, exec (.ldVxDT x) s = .next t ∧ t.reg x = s.dt ∧ OthersKept x s t ∧ PcAdvanced 2 s t ∧ Frame [.pc, .v] s t) ∧
    (∃ t, exec (.ldDTVx x) s = .next t ∧ t.dt = s.reg x ∧ PcAdvanced 2 s t ∧ Frame [.pc, .dt] s t) ∧
    (∃ t, exec (.ldSTVx x) s = .next t ∧ t.st = s.reg x ∧ PcAdvanced 2 s t ∧ Frame [.pc, .st] s t)

/-- R234: `Fx0A` starts the wait and changes nothing but `RUN`; `PC` stays at the instruction, the keys are not read (D13). -/
def Obligations.KeyWaitStarts : Prop :=
  ∀ (x : Reg) (s : State), (encode (.ldVxK x)).toNat = 0xF00A + x.val * 256 ∧
    ∃ t, exec (.ldVxK x) s = .next t ∧ t.run = .awaitingKey x ∧ Frame [.run] s t

/-- R235, R265: a KeyPress sets the flag of its key; in `AwaitingKey(x)` it also puts the key's index into `V[x]`, moves
`PC` past the `Fx0A` and lets the core run; in the other run states it does nothing else (D13, D28). -/
def Obligations.KeyPressCompletesTheWait : Prop :=
  ∀ (k : Key) (s : State),
    (∀ x : Reg, s.run = .awaitingKey x → ∃ t, perform (.keyPress k) s = .next t ∧ t.key k = true ∧
      (∀ q : Key, q ≠ k → t.key q = s.key q) ∧ (t.reg x).toNat = k.val ∧ OthersKept x s t ∧ PcAdvanced 2 s t ∧
      t.run = .running ∧ Frame [.pc, .v, .keys, .run] s t) ∧
    ((∀ x : Reg, s.run ≠ .awaitingKey x) → ∃ t, perform (.keyPress k) s = .next t ∧ t.key k = true ∧
      (∀ q : Key, q ≠ k → t.key q = s.key q) ∧ Frame [.keys] s t)

/-- R266, R267: a KeyRelease clears one flag (D28), a ClearDirty clears `DIRTY`, and nothing else, in any run state. -/
def Obligations.KeyReleaseAndClearDirty : Prop :=
  ∀ s : State,
    (∀ k : Key, ∃ t, perform (.keyRelease k) s = .next t ∧ t.key k = false ∧
      (∀ q : Key, q ≠ k → t.key q = s.key q) ∧ Frame [.keys] s t) ∧
    (∃ t, perform .clearDirty s = .next t ∧ t.dirty = false ∧ Frame [.dirty] s t)

/-- R264: a TimerTick counts both timers down by one, floored at 0, while the core runs, and changes nothing otherwise; a
cycle never counts: it leaves each timer or writes it from a register (`Fx15`, `Fx18`). No tick outside Running is D14. -/
def Obligations.TimerTickCountsDown : Prop :=
  ∀ s : State,
    (s.run = .running → ∃ t, perform .timerTick s = .next t ∧ t.dt.toNat = s.dt.toNat - 1 ∧
      t.st.toNat = s.st.toNat - 1 ∧ Frame [.dt, .st] s t) ∧
    (s.run ≠ .running → perform .timerTick s = .next s) ∧
    (∀ t, perform .cycle s = .next t → (t.dt = s.dt ∨ ∃ x, t.dt = s.reg x) ∧ (t.st = s.st ∨ ∃ x, t.st = s.reg x))

/-! ## Reset -/

/-- R41, R290, R293: Reset with a ROM that fits leaves every piece of state at its value of R41, in any run state; a
longer ROM is refused, and STACK_DEPTH stays the machine's (notes/assumptions/1.md). (D18; `DIRTY` is D17, `RUN` D13, `FAULT` D21). -/
def Obligations.ResetBuildsTheWholeState : Prop :=
  ∀ (glyphs : Vector Byte 80) (rom : List Byte) (s : State),
    (rom.length ≤ 3584 → ∃ t, perform (.reset glyphs rom) s = .next t ∧
      (∀ r : Reg, t.reg r = 0x00#8) ∧ t.i = 0x0000#16 ∧ t.pc = 0x0200#16 ∧ t.dt = 0x00#8 ∧ t.st = 0x00#8 ∧
      t.stack = [] ∧
      (∀ (a : Nat) (h : a < 80), t.readByte a = glyphs[a]) ∧
      (∀ a, 0x050 ≤ a → a < 0x200 → t.readByte a = 0x00#8) ∧
      (∀ (k : Nat) (h : k < rom.length), t.readByte (0x200 + k) = rom[k]) ∧
      (∀ a, 0x200 + rom.length ≤ a → a ≤ 0xFFF → t.readByte a = 0x00#8) ∧
      (∀ x y, FrameBuffer.cell t.fb x y = false) ∧ t.dirty = false ∧ (∀ k : Key, t.key k = false) ∧
      t.run = .running ∧ t.fault = none ∧ t.stackDepth = s.stackDepth) ∧
    (3584 < rom.length → perform (.reset glyphs rom) s = .refused .romTooLong)

/-- R41, R67: the state right after Reset with an empty ROM and the default FONT, read byte by byte for the first glyph
and the last, and its first step, which reports the word 0x0000 at 0x200 (R293). That FONT has these bytes is the
default the spec takes from general knowledge (notes/assumptions/2.md). -/
def Obligations.ResetStateValues : Prop :=
  State.reset.pc = 0x200#16 ∧ State.reset.run = .running ∧ State.reset.fault = none ∧ State.reset.stack = [] ∧
  (List.range 5).map State.reset.readByte = [0xF0#8, 0x90#8, 0x90#8, 0x90#8, 0xF0#8] ∧
  (List.range 5).map (fun r => State.reset.readByte (75 + r)) = [0xF0#8, 0x80#8, 0xF0#8, 0x80#8, 0x80#8] ∧
  performed (.reset font []) State.reset = State.reset ∧
  ∃ t, step State.reset = .next t ∧ t.pc = 0x202#16 ∧ t.reports = [⟨0x200#16, 0x0000#16⟩]

/-! ## Rules of the whole machine -/

/-- R20, R23, R252: an instruction writes only the state its row of the tables names, and only the registers it names;
or it takes the one fault it can raise. -/
def Obligations.InstructionWritesOnlyItsOwn : Prop :=
  ∀ (i : Instr) (s t : State), exec i s = .next t →
    (Frame (writtenBy i) s t ∧ ∀ r : Reg, writesReg i r = false → t.reg r = s.reg r) ∨
    (∃ c, causeOf i = some c ∧ Faults c (encode i) s t)

/-- R252: the 26 instructions with no fault complete in every state: `FAULT` is unchanged and the core runs on or waits. -/
def Obligations.OnlyEightInstructionsFault : Prop :=
  ∀ (i : Instr) (s : State), causeOf i = none →
    ∃ t, exec i s = .next t ∧ t.fault = s.fault ∧ (t.run = s.run ∨ ∃ x, t.run = .awaitingKey x)

/-- R251, R256, R257: a step that takes a fault records the cause, the address and the fetched word and changes nothing
else: faults are precise (D5, D21, D22). The cause is FetchOutOfRange with the word 0x0000 when the fetch itself failed
(D6), and otherwise the one cause of the decoded instruction (R252). -/
def Obligations.FaultsArePrecise : Prop :=
  ∀ s t : State, s.run = .running → step s = .next t → t.run = .faulted →
    ∃ c op, Faults c op s t ∧ ((c = .fetchOutOfRange ∧ op = 0x0000#16 ∧ 0xFFE < s.pc.toNat) ∨
      (∃ i, s.fetch = some op ∧ decode op = .insn i ∧ causeOf i = some c))

/-- R258, R259: in `Faulted`, whatever the host does short of a Reset, in any number of operations, only the key flags and
`DIRTY` can change; `FAULT` and `RUN` stay (D21). -/
def Obligations.FaultedUntilReset : Prop :=
  ∀ (ops : List HostOp) (s : State), s.run = .faulted → (∀ op ∈ ops, ∀ glyphs rom, op ≠ .reset glyphs rom) →
    Frame [.keys, .dirty] s (hostRun ops s)

/-- R234, R274: while the core waits for a key, whatever the host does short of a KeyPress or a Reset, only the key flags
and `DIRTY` can change (D13, D14). -/
def Obligations.WaitHoldsTheMachine : Prop :=
  ∀ (ops : List HostOp) (s : State) (x : Reg), s.run = .awaitingKey x →
    (∀ op ∈ ops, (∀ glyphs rom, op ≠ .reset glyphs rom) ∧ ∀ k, op ≠ .keyPress k) →
    Frame [.keys, .dirty] s (hostRun ops s)

/-- R35: `DIRTY`, once set, is cleared by ClearDirty or Reset and by nothing else. -/
def Obligations.DirtyIsClearedOnlyByTheHost : Prop :=
  ∀ (op : HostOp) (s t : State), perform op s = .next t → s.dirty = true → t.dirty = false →
    op = .clearDirty ∨ ∃ glyphs rom, op = .reset glyphs rom

/-- R298, R142: once the word at `PC` is a jump to `PC` itself and the core runs, a step leaves the whole state
unchanged (D25). -/
def Obligations.SelfJumpIsAFixedPoint : Prop :=
  ∀ s : State, s.run = .running → s.pc.toNat ≤ 0xFFE →
    joinBytes (s.readByte s.pc.toNat) (s.readByte (s.pc.toNat + 1)) = BitVec.ofNat 16 (0x1000 + s.pc.toNat) →
    step s = .next s

/-- R29, R35, R38, R40: no step reads the sound timer, `DIRTY`, `FAULT` or the reports: two states that differ only there
take steps that differ only there. -/
def Obligations.StepIgnoresWhatNoInstructionReads : Prop :=
  ∀ (s t : State) (st : Byte) (dirty : Bool) (fault : Option FaultRecord) (reports : List Report), step s = .next t →
    ∃ u, step { s with st := st, dirty := dirty, fault := fault, reports := reports } = .next u ∧
      Frame [.st, .dirty, .fault, .reports] t u

/-! ## Invariants -/

/-- The memory list keeps its canonical form, whatever operation is performed. The form is the model's choice
(notes/assumptions/9.md); of it only the bound, no byte outside 0x000 to 0xFFF, is the spec's (R32, R65). -/
def Obligations.MemoryStaysCanonical : Prop :=
  (∀ s t : State, s.mem.wf = true → step s = .next t → t.mem.wf = true) ∧
  (∀ (op : HostOp) (s t : State), s.mem.wf = true → perform op s = .next t → t.mem.wf = true)

/-- R38: `FAULT` stays non-empty exactly when `RUN` is Faulted, whatever operation is performed (D21). -/
def Obligations.FaultRecordMatchesRunState : Prop :=
  (∀ s t : State, FaultMatchesRun s → step s = .next t → FaultMatchesRun t) ∧
  (∀ (op : HostOp) (s t : State), FaultMatchesRun s → perform op s = .next t → FaultMatchesRun t)

/-- R30: the stack never holds more than STACK_DEPTH entries, whatever operation is performed (D3). -/
def Obligations.StackStaysBounded : Prop :=
  (∀ s t : State, StackBounded s → step s = .next t → StackBounded t) ∧
  (∀ (op : HostOp) (s t : State), StackBounded s → perform op s = .next t → StackBounded t)

/-- R27, R141, R148: `PC` never passes 0x10FE and a return address never passes 0x1000, whatever operation is performed;
so `PC + 2` and `PC + 4` never wrap at 16 bits (D6, D26). -/
def Obligations.PcStaysInRange : Prop :=
  (∀ s t : State, PcBounded s → step s = .next t → PcBounded t) ∧
  (∀ (op : HostOp) (s t : State), PcBounded s → perform op s = .next t → PcBounded t)

/-- The invariants hold right after reset, for every STACK_DEPTH: the memory's canonical form, the model's choice
(notes/assumptions/9.md); R38 (D21); R30 (D3); the range of R27 (D26). -/
def Obligations.ResetMeetsTheInvariants : Prop :=
  ∀ depth : Nat, (State.resetWith depth).mem.wf = true ∧ FaultMatchesRun (State.resetWith depth) ∧
    StackBounded (State.resetWith depth) ∧ PcBounded (State.resetWith depth)

/-- R268: for every STACK_DEPTH, after any operations of the host, in any order and with any programs loaded, the
invariants hold: the memory's canonical form, the model's choice (notes/assumptions/9.md); R38 (D21); R30 (D3); the range
of R27 (D26). -/
def Obligations.InvariantsHoldInEveryHostRun : Prop :=
  ∀ (depth : Nat) (ops : List HostOp),
    (hostRun ops (State.resetWith depth)).mem.wf = true ∧ FaultMatchesRun (hostRun ops (State.resetWith depth)) ∧
    StackBounded (hostRun ops (State.resetWith depth)) ∧ PcBounded (hostRun ops (State.resetWith depth))

/-- R6, R30: STACK_DEPTH is a parameter of the machine: no step and no host operation, Reset included, changes it. That it
stands in the state is the model's choice (notes/assumptions/1.md). -/
def Obligations.StackDepthNeverChanges : Prop :=
  (∀ s t : State, step s = .next t → t.stackDepth = s.stackDepth) ∧
  (∀ (op : HostOp) (s t : State), perform op s = .next t → t.stackDepth = s.stackDepth)
end

