-- ==== Sys2Proof/Laws/Decode.lean ====
section
/-! SUPPORT. The fields of an encoded word are the operands it was made from (spec/30_encoding.md R91, R92), and the two
bytes of a word make it again (spec/20_memory.md R61). -/

namespace Sys2Proof

/-- A word is its high byte and its low byte (R61). -/
theorem joinBytes_high_low (op : Word) : joinBytes (highByte op) (lowByte op) = op := by
  apply BitVec.eq_of_getLsbD_eq
  intro k hk
  simp only [joinBytes, highByte, lowByte, BitVec.getLsbD_append, BitVec.getLsbD_extractLsb']
  split
  · simp [*]
  · have : k - 8 < 8 := by omega
    simp [this, show 8 + (k - 8) = k by omega]

theorem highByte_joinBytes (hi lo : Byte) : highByte (joinBytes hi lo) = hi := by
  apply BitVec.eq_of_getLsbD_eq
  intro k hk
  simp only [joinBytes, highByte, BitVec.getLsbD_append, BitVec.getLsbD_extractLsb', hk]
  rw [if_neg (by omega)]
  simp [show 8 + k - 8 = k by omega]

theorem lowByte_joinBytes (hi lo : Byte) : lowByte (joinBytes hi lo) = lo := by
  apply BitVec.eq_of_getLsbD_eq
  intro k hk
  simp only [joinBytes, lowByte, BitVec.getLsbD_append, BitVec.getLsbD_extractLsb', hk]
  rw [if_pos (by omega)]
  simp

/-- The bits of a register number are the register number (R91). -/
theorem regBits_toFin (x : Reg) : (regBits x).toFin = x := rfl

@[simp] theorem fieldT_formatA (t : BitVec 4) (nnn : Imm12) : fieldT (formatA t nnn) = t := by
  apply BitVec.eq_of_getLsbD_eq
  intro k hk
  simp only [fieldT, formatA, BitVec.getLsbD_append, BitVec.getLsbD_extractLsb', hk]
  rw [if_neg (by omega)]
  simp [show 12 + k - 12 = k by omega]

@[simp] theorem fieldNNN_formatA (t : BitVec 4) (nnn : Imm12) : fieldNNN (formatA t nnn) = nnn := by
  apply BitVec.eq_of_getLsbD_eq
  intro k hk
  simp only [fieldNNN, formatA, BitVec.getLsbD_append, BitVec.getLsbD_extractLsb', hk]
  rw [if_pos (by omega)]
  simp [show 0 + k = k by omega]

@[simp] theorem fieldT_formatXK (t : BitVec 4) (x : Reg) (kk : Byte) : fieldT (formatXK t x kk) = t := by
  apply BitVec.eq_of_getLsbD_eq
  intro k hk
  simp only [fieldT, formatXK, BitVec.getLsbD_append, BitVec.getLsbD_extractLsb', hk]
  rw [if_neg (by omega), if_neg (by omega)]
  simp [show 12 + k - 8 - 4 = k by omega]

@[simp] theorem fieldX_formatXK (t : BitVec 4) (x : Reg) (kk : Byte) : fieldX (formatXK t x kk) = x := by
  have h : (formatXK t x kk).extractLsb' 8 4 = regBits x := by
    apply BitVec.eq_of_getLsbD_eq
    intro k hk
    simp only [formatXK, BitVec.getLsbD_append, BitVec.getLsbD_extractLsb', hk]
    rw [if_neg (by omega), if_pos (by omega)]
    simp [show 8 + k - 8 = k by omega]
  exact congrArg BitVec.toFin h

@[simp] theorem fieldKK_formatXK (t : BitVec 4) (x : Reg) (kk : Byte) : fieldKK (formatXK t x kk) = kk := by
  apply BitVec.eq_of_getLsbD_eq
  intro k hk
  simp only [fieldKK, formatXK, BitVec.getLsbD_append, BitVec.getLsbD_extractLsb', hk]
  rw [if_pos (by omega)]
  simp [show 0 + k = k by omega]

@[simp] theorem fieldT_formatXYN (t : BitVec 4) (x y : Reg) (n : Nibble) : fieldT (formatXYN t x y n) = t := by
  apply BitVec.eq_of_getLsbD_eq
  intro k hk
  simp only [fieldT, formatXYN, BitVec.getLsbD_append, BitVec.getLsbD_extractLsb', hk]
  rw [if_neg (by omega), if_neg (by omega), if_neg (by omega)]
  simp [show 12 + k - 4 - 4 - 4 = k by omega]

@[simp] theorem fieldX_formatXYN (t : BitVec 4) (x y : Reg) (n : Nibble) : fieldX (formatXYN t x y n) = x := by
  have h : (formatXYN t x y n).extractLsb' 8 4 = regBits x := by
    apply BitVec.eq_of_getLsbD_eq
    intro k hk
    simp only [formatXYN, BitVec.getLsbD_append, BitVec.getLsbD_extractLsb', hk]
    rw [if_neg (by omega), if_neg (by omega), if_pos (by omega)]
    simp [show 8 + k - 4 - 4 = k by omega]
  exact congrArg BitVec.toFin h

@[simp] theorem fieldY_formatXYN (t : BitVec 4) (x y : Reg) (n : Nibble) : fieldY (formatXYN t x y n) = y := by
  have h : (formatXYN t x y n).extractLsb' 4 4 = regBits y := by
    apply BitVec.eq_of_getLsbD_eq
    intro k hk
    simp only [formatXYN, BitVec.getLsbD_append, BitVec.getLsbD_extractLsb', hk]
    rw [if_neg (by omega), if_pos (by omega)]
    simp [show 4 + k - 4 = k by omega]
  exact congrArg BitVec.toFin h

@[simp] theorem fieldN_formatXYN (t : BitVec 4) (x y : Reg) (n : Nibble) : fieldN (formatXYN t x y n) = n := by
  apply BitVec.eq_of_getLsbD_eq
  intro k hk
  simp only [fieldN, formatXYN, BitVec.getLsbD_append, BitVec.getLsbD_extractLsb', hk]
  rw [if_pos (by omega)]
  simp [show 0 + k = k by omega]


theorem regBits_fieldX (op : Word) : regBits (fieldX op) = op.extractLsb' 8 4 := rfl

theorem regBits_fieldY (op : Word) : regBits (fieldY op) = op.extractLsb' 4 4 := rfl

/-- A word is its fields, in format A (R92). -/
theorem formatA_fields (op : Word) : formatA (fieldT op) (fieldNNN op) = op := by
  apply BitVec.eq_of_getLsbD_eq
  intro k hk
  simp only [formatA, fieldT, fieldNNN, BitVec.getLsbD_append, BitVec.getLsbD_extractLsb']
  interval_cases k <;> simp

/-- A word is its fields, in formats XK and X (R92). -/
theorem formatXK_fields (op : Word) : formatXK (fieldT op) (fieldX op) (fieldKK op) = op := by
  apply BitVec.eq_of_getLsbD_eq
  intro k hk
  simp only [formatXK, regBits_fieldX, fieldT, fieldKK, BitVec.getLsbD_append, BitVec.getLsbD_extractLsb']
  interval_cases k <;> simp

/-- A word is its fields, in formats XY and XYN (R92). -/
theorem formatXYN_fields (op : Word) : formatXYN (fieldT op) (fieldX op) (fieldY op) (fieldN op) = op := by
  apply BitVec.eq_of_getLsbD_eq
  intro k hk
  simp only [formatXYN, regBits_fieldX, regBits_fieldY, fieldT, fieldN, BitVec.getLsbD_append,
    BitVec.getLsbD_extractLsb']
  interval_cases k <;> simp

/-- A word of format A as a number (R92). -/
theorem formatA_toNat (t : BitVec 4) (nnn : Imm12) : (formatA t nnn).toNat = t.toNat * 4096 + nnn.toNat := by
  have h := nnn.isLt
  simp only [formatA, BitVec.toNat_append, Nat.shiftLeft_eq]
  rw [show (2 : Nat) ^ 12 = 4096 from rfl, Nat.mul_comm]
  exact (Nat.two_pow_add_eq_or_of_lt (i := 12) h t.toNat).symm

/-- A word of format XK or X as a number (R92). -/
theorem formatXK_toNat (t : BitVec 4) (x : Reg) (kk : Byte) :
    (formatXK t x kk).toNat = t.toNat * 4096 + x.val * 256 + kk.toNat := by
  have h := kk.isLt
  have hx := x.isLt
  simp only [formatXK, BitVec.toNat_append, Nat.shiftLeft_eq]
  rw [Nat.mul_comm (_ ||| _), Nat.mul_comm t.toNat, ← Nat.two_pow_add_eq_or_of_lt (i := 8) h,
    ← Nat.two_pow_add_eq_or_of_lt (i := 4) (regBits x).isLt]
  simp only [regBits, BitVec.toNat_ofFin]
  omega

/-- A word of format XY or XYN as a number (R92). -/
theorem formatXYN_toNat (t : BitVec 4) (x y : Reg) (n : Nibble) :
    (formatXYN t x y n).toNat = t.toNat * 4096 + x.val * 256 + y.val * 16 + n.toNat := by
  have h := n.isLt
  have hx := x.isLt
  have hy := y.isLt
  simp only [formatXYN, BitVec.toNat_append, Nat.shiftLeft_eq]
  rw [Nat.mul_comm (_ ||| _), Nat.mul_comm (_ ||| _), Nat.mul_comm t.toNat,
    ← Nat.two_pow_add_eq_or_of_lt (i := 4) h, ← Nat.two_pow_add_eq_or_of_lt (i := 4) (regBits y).isLt,
    ← Nat.two_pow_add_eq_or_of_lt (i := 4) (regBits x).isLt]
  simp only [regBits, BitVec.toNat_ofFin]
  omega

end Sys2Proof
end

