-- ==== Sys2Proof/Laws/Display.lean ====
section
/-! SUPPORT. What a blit does, said of cells: the loops of spec/44_display.md R212 toggle exactly the touched cells, each
once, and report whether one of them was set (R213, R214). -/

namespace Sys2Proof.Machine

/-- A toggle inside the grid inverts that cell and no other (R214). -/
theorem FrameBuffer.cell_toggle (fb : FrameBuffer) {x y : Nat} (hx : x ≤ 63) (hy : y ≤ 31) (x' y' : Nat) :
    FrameBuffer.cell (FrameBuffer.toggle fb x y) x' y' =
      (FrameBuffer.cell fb x' y' ^^ (decide (x' = x) && decide (y' = y))) := by
  have hy' : y < 32 := by omega
  by_cases h : y' < 32
  · by_cases e : y' = y
    · subst e
      by_cases ex : x' = x
      · subst ex
        simp [FrameBuffer.cell, FrameBuffer.toggle, h, show x' < 64 by omega]
      · simp [FrameBuffer.cell, FrameBuffer.toggle, h, ex, Ne.symm ex]
    · simp [FrameBuffer.cell, FrameBuffer.toggle, h, hy', e, Ne.symm e]
  · simp [FrameBuffer.cell, h, show ¬ y' = y by omega]

theorem FrameBuffer.cell_clear (x y : Nat) : FrameBuffer.cell FrameBuffer.clear x y = false := by
  simp [FrameBuffer.cell, FrameBuffer.clear]

/-- A cell outside the grid holds nothing (R33). -/
theorem FrameBuffer.cell_outside (fb : FrameBuffer) {x y : Nat} (h : 63 < x ∨ 31 < y) :
    FrameBuffer.cell fb x y = false := by
  unfold FrameBuffer.cell
  split
  · exact BitVec.getLsbD_of_ge _ _ (by omega)
  · rfl

/-- A set of touched cells has been applied to a frame buffer: each is toggled, and the flag says whether one was set. -/
def Applied (fb : FrameBuffer) (touched : Nat → Nat → Bool) (acc : Blit) : Prop :=
  (∀ x y, FrameBuffer.cell acc.1 x y = (FrameBuffer.cell fb x y ^^ touched x y)) ∧
  (acc.2 = true ↔ ∃ x y, touched x y = true ∧ FrameBuffer.cell fb x y = true)

/-- The cells the first `k` bits of a row touch. -/
def bitsTouch (b : Byte) (x0 py k x y : Nat) : Bool :=
  decide (x ≤ 63) && decide (y = py) && decide (x0 ≤ x) && decide (x < x0 + k) && b.getLsbD (7 - (x - x0))

/-- Touching one more cell, not touched yet. -/
theorem Applied.toggle {fb : FrameBuffer} {f g : Nat → Nat → Bool} {acc : Blit} (h : Applied fb f acc) {px py : Nat}
    (hx : px ≤ 63) (hy : py ≤ 31) (fresh : f px py = false)
    (hg : ∀ x y, g x y = (f x y || (decide (x = px) && decide (y = py)))) :
    Applied fb g (FrameBuffer.toggle acc.1 px py, acc.2 || FrameBuffer.cell acc.1 px py) := by
  obtain ⟨hc, hf⟩ := h
  constructor
  · intro x y
    rw [FrameBuffer.cell_toggle _ hx hy, hc, hg]
    by_cases e : x = px ∧ y = py
    · obtain ⟨rfl, rfl⟩ := e; simp [fresh]
    · rw [show (decide (x = px) && decide (y = py)) = false by simpa using e]; simp
  · rw [Bool.or_eq_true, hf, hc, fresh]
    constructor
    · rintro (⟨x, y, h1, h2⟩ | h2)
      · exact ⟨x, y, by simp [hg, h1], h2⟩
      · exact ⟨px, py, by simp [hg], by simpa using h2⟩
    · rintro ⟨x, y, h1, h2⟩
      rw [hg, Bool.or_eq_true] at h1
      rcases h1 with h1 | h1
      · exact .inl ⟨x, y, h1, h2⟩
      · simp only [Bool.and_eq_true, decide_eq_true_eq] at h1
        obtain ⟨rfl, rfl⟩ := h1
        exact .inr (by simpa using h2)

/-- The same touched cells, differently said. -/
theorem Applied.congr {fb : FrameBuffer} {f g : Nat → Nat → Bool} {acc : Blit} (h : Applied fb f acc)
    (hg : ∀ x y, g x y = f x y) : Applied fb g acc :=
  ⟨fun x y => by rw [hg, h.1], by simp only [hg]; exact h.2⟩

/-- One bit of a row (R212). -/
theorem blitBit_applied {fb : FrameBuffer} {f : Nat → Nat → Bool} {b : Byte} {x0 py k : Nat} {acc : Blit}
    (hy : py ≤ 31) (hf : ∀ x, f x py = false)
    (h : Applied fb (fun x y => f x y || bitsTouch b x0 py k x y) acc) :
    Applied fb (fun x y => f x y || bitsTouch b x0 py (k + 1) x y) (blitBit b x0 py acc k) := by
  unfold blitBit
  by_cases c : b.getLsbD (7 - k) = true ∧ x0 + k ≤ 63
  · rw [if_pos (by simpa using c)]
    refine h.toggle c.2 hy (by simp [hf, bitsTouch]) fun x y => ?_
    rw [Bool.or_assoc]
    congr 1
    simp only [bitsTouch]
    by_cases e : x = x0 + k
    · subst e
      by_cases e2 : y = py <;> simp [e2, c.1, c.2]
    · rw [show decide (x < x0 + (k + 1)) = decide (x < x0 + k) by simp only [decide_eq_decide]; omega]
      simp [e]
  · rw [if_neg (by simpa using c)]
    refine h.congr fun x y => ?_
    congr 1
    simp only [bitsTouch]
    by_cases e : x = x0 + k
    · subst e
      have : ¬ (x0 + k ≤ 63 ∧ b.getLsbD (7 - k) = true) := fun q => c ⟨q.2, q.1⟩
      by_cases q : x0 + k ≤ 63
      · have : b.getLsbD (7 - k) = false := by simpa using fun r => this ⟨q, r⟩
        simp [this]
      · simp [q]
    · rw [show decide (x < x0 + (k + 1)) = decide (x < x0 + k) by simp only [decide_eq_decide]; omega]

/-- The first `k` bits of a row (R212). -/
theorem blitBits_applied {fb : FrameBuffer} {f : Nat → Nat → Bool} {b : Byte} {x0 py : Nat} {acc : Blit}
    (hy : py ≤ 31) (hf : ∀ x, f x py = false) (h : Applied fb f acc) (k : Nat) :
    Applied fb (fun x y => f x y || bitsTouch b x0 py k x y) ((List.range k).foldl (blitBit b x0 py) acc) := by
  induction k with
  | zero => exact h.congr fun x y => by simp [bitsTouch]
  | succ k ih =>
    rw [List.range_succ, List.foldl_append]
    exact blitBit_applied hy hf ih

/-- The cells the first `n` rows of a sprite touch: `spriteTouches` (R212). -/
theorem blitSprite_applied (bytes : Nat → Byte) (x0 y0 n : Nat) (fb : FrameBuffer) :
    Applied fb (spriteTouches bytes x0 y0 n) (blitSprite bytes x0 y0 n fb) := by
  unfold blitSprite
  induction n with
  | zero =>
    refine ⟨fun x y => ?_, ?_⟩
    · have : spriteTouches bytes x0 y0 0 x y = false := by
        simp only [spriteTouches]; by_cases h : y0 ≤ y <;> simp [h, Nat.not_lt.mpr]
      simp [this]
    · simp only [Bool.false_eq_true, false_iff, not_exists, not_and, List.range_zero, List.foldl_nil]
      intro x y h
      simp only [spriteTouches, Bool.and_eq_true, decide_eq_true_eq] at h
      omega
  | succ n ih =>
    rw [List.range_succ, List.foldl_append]
    simp only [List.foldl_cons, List.foldl_nil, blitRow]
    split
    · next hy =>
      refine Applied.congr (blitBits_applied hy (fun x => ?_) ih 8) fun x y => ?_
      · simp [spriteTouches]
      · simp only [spriteTouches, bitsTouch]
        by_cases e : y = y0 + n
        · subst e; simp [hy]
        · rw [show decide (y < y0 + (n + 1)) = decide (y < y0 + n) by simp only [decide_eq_decide]; omega]
          simp [e]
    · next hy =>
      refine ih.congr fun x y => ?_
      simp only [spriteTouches]
      by_cases e : y ≤ 31
      · rw [show decide (y < y0 + (n + 1)) = decide (y < y0 + n) by simp only [decide_eq_decide]; omega]
      · simp [e]

/-- What a `Dxyn` draws (R212, R213, R214): every touched cell toggled, no other; the flag is the collision. -/
theorem State.blit_applied (s : State) (x y : Reg) (n : Nibble) : Applied s.fb (s.touches x y n) (s.blit x y n) :=
  blitSprite_applied _ _ _ _ _

end Sys2Proof.Machine
end

