-- ==== Sys2Proof/Laws/Memory.lean ====
section
/-! SUPPORT. What the memory operations do: a read after a write, and the canonical form kept by every one of them
(spec/20_memory.md R64, R69). -/

namespace Sys2Proof.Machine

@[simp] theorem Memory.read_nil (a : Nat) : Memory.read [] a = resetByte a := rfl

theorem Memory.read_cons (k : Nat) (b : Byte) (m : Memory) (a : Nat) :
    Memory.read ((k, b) :: m) a = if k = a then b else Memory.read m a := rfl

/-- A canonical list above `lo` is canonical above any lower bound. -/
theorem Memory.wfFrom_mono {lo lo' : Nat} (h : lo' ≤ lo) {m : Memory} (w : Memory.wfFrom lo m = true) :
    Memory.wfFrom lo' m = true := by
  cases m with
  | nil => rfl
  | cons c m =>
    obtain ⟨k, b⟩ := c
    simp only [Memory.wfFrom, Bool.and_eq_true, decide_eq_true_eq] at w ⊢
    exact ⟨⟨⟨by omega, w.1.1.2⟩, w.1.2⟩, w.2⟩

/-- Below its bound a canonical list holds no entry. -/
theorem Memory.read_below {m : Memory} {lo a : Nat} (w : Memory.wfFrom lo m = true) (h : a < lo) :
    Memory.read m a = resetByte a := by
  induction m generalizing lo with
  | nil => rfl
  | cons c m ih =>
    obtain ⟨k, b⟩ := c
    simp only [Memory.wfFrom, Bool.and_eq_true, decide_eq_true_eq] at w
    rw [Memory.read_cons, if_neg (by omega)]
    exact ih w.2 (by omega)

/-- Listing a byte: the place reads it, every other place as before. -/
theorem Memory.read_list (m : Memory) (a : Nat) (b : Byte) (a' : Nat) :
    Memory.read (Memory.list m a b) a' = if a' = a then b else Memory.read m a' := by
  induction m with
  | nil => simp [Memory.list, Memory.read_cons, eq_comm]
  | cons c m ih =>
    obtain ⟨k, d⟩ := c
    simp only [Memory.list]
    split
    · simp [Memory.read_cons, eq_comm]
    · split
      · next h =>
        subst h
        by_cases e : a = a'
        · subst e; simp [Memory.read_cons]
        · simp [Memory.read_cons, e, Ne.symm e]
      · next h =>
        by_cases e : k = a'
        · subst e; simp [Memory.read_cons, Ne.symm h]
        · simp [Memory.read_cons, e, ih]

/-- Unlisting an address of a canonical list: it reads as at reset, every other place as before. -/
theorem Memory.read_unlist {m : Memory} {lo : Nat} (w : Memory.wfFrom lo m = true) (a a' : Nat) :
    Memory.read (Memory.unlist m a) a' = if a' = a then resetByte a else Memory.read m a' := by
  induction m generalizing lo with
  | nil => by_cases e : a' = a <;> simp [Memory.unlist, e]
  | cons c m ih =>
    obtain ⟨k, d⟩ := c
    simp only [Memory.wfFrom, Bool.and_eq_true, decide_eq_true_eq] at w
    simp only [Memory.unlist]
    split
    · next h =>
      subst h
      by_cases e : a' = k
      · subst e; simpa using Memory.read_below w.2 (by omega)
      · simp [Memory.read_cons, e, Ne.symm e]
    · next h =>
      by_cases e : k = a'
      · subst e; simp [Memory.read_cons, h]
      · simp [Memory.read_cons, e, ih w.2]

/-- Listing a byte that is not the reset byte keeps the form. -/
theorem Memory.wfFrom_list {m : Memory} {lo a : Nat} {b : Byte} (w : Memory.wfFrom lo m = true) (hlo : lo ≤ a)
    (ha : a < Config.memSize) (hb : b ≠ resetByte a) : Memory.wfFrom lo (Memory.list m a b) = true := by
  induction m generalizing lo with
  | nil => simp [Memory.list, Memory.wfFrom, hlo, ha, hb]
  | cons c m ih =>
    obtain ⟨k, d⟩ := c
    simp only [Memory.wfFrom, Bool.and_eq_true, decide_eq_true_eq] at w
    simp only [Memory.list]
    split
    · simp only [Memory.wfFrom, Bool.and_eq_true, decide_eq_true_eq]
      exact ⟨⟨⟨hlo, ha⟩, hb⟩, ⟨⟨by omega, w.1.1.2⟩, w.1.2⟩, w.2⟩
    · split
      · next h =>
        subst h
        simp only [Memory.wfFrom, Bool.and_eq_true, decide_eq_true_eq]
        exact ⟨⟨⟨hlo, ha⟩, hb⟩, w.2⟩
      · simp only [Memory.wfFrom, Bool.and_eq_true, decide_eq_true_eq]
        exact ⟨w.1, ih w.2 (by omega)⟩

/-- Unlisting an address keeps the form. -/
theorem Memory.wfFrom_unlist {m : Memory} {lo : Nat} (w : Memory.wfFrom lo m = true) (a : Nat) :
    Memory.wfFrom lo (Memory.unlist m a) = true := by
  induction m generalizing lo with
  | nil => rfl
  | cons c m ih =>
    obtain ⟨k, d⟩ := c
    simp only [Memory.wfFrom, Bool.and_eq_true, decide_eq_true_eq] at w
    simp only [Memory.unlist]
    split
    · exact Memory.wfFrom_mono (by omega) w.2
    · simp only [Memory.wfFrom, Bool.and_eq_true, decide_eq_true_eq]
      exact ⟨w.1, ih w.2⟩

/-- A write inside the bank keeps the canonical form. -/
theorem Memory.wf_write {m : Memory} {a : Nat} {b : Byte} (w : m.wf = true) (ha : a < Config.memSize) :
    (m.write a b).wf = true := by
  unfold Memory.write
  split
  · exact Memory.wfFrom_unlist w a
  · next h => exact Memory.wfFrom_list w (Nat.zero_le a) ha h

/-- A read after a write: the place written reads the byte, every other place as before (R64, R69). -/
theorem Memory.read_write {m : Memory} (w : m.wf = true) (a : Nat) (b : Byte) (a' : Nat) :
    (m.write a b).read a' = if a' = a then b else m.read a' := by
  unfold Memory.write
  split
  · next h => rw [Memory.read_unlist w, h]
  · exact Memory.read_list m a b a'

/-- Bytes stored inside the bank keep the canonical form. -/
theorem Memory.wf_writeBytes {bs : List Byte} {m : Memory} {a : Nat} (w : m.wf = true)
    (ha : a + bs.length ≤ Config.memSize) : (m.writeBytes a bs).wf = true := by
  induction bs generalizing m a with
  | nil => exact w
  | cons b bs ih =>
    simp only [List.length_cons] at ha
    exact ih (Memory.wf_write w (by omega)) (by omega)

/-- Bytes stored from `a`: byte `k` is read at `a + k`, every place outside reads as before (R62, R69). -/
theorem Memory.read_writeBytes {bs : List Byte} {m : Memory} {a : Nat} (w : m.wf = true)
    (ha : a + bs.length ≤ Config.memSize) (a' : Nat) :
    (m.writeBytes a bs).read a' = if h : a ≤ a' ∧ a' < a + bs.length then bs[a' - a] else m.read a' := by
  induction bs generalizing m a with
  | nil => simp [Memory.writeBytes]
  | cons b bs ih =>
    simp only [List.length_cons] at ha
    simp only [Memory.writeBytes]
    rw [ih (Memory.wf_write w (by omega)) (by omega), Memory.read_write w]
    by_cases h1 : a + 1 ≤ a' ∧ a' < a + 1 + bs.length
    · have e : a' - a = (a' - (a + 1)) + 1 := by omega
      rw [dif_pos h1, dif_pos (by simp only [List.length_cons]; omega)]
      simp [e]
    · rw [dif_neg h1]
      by_cases h2 : a' = a
      · subst h2; simp
      · rw [if_neg h2, dif_neg (by simp only [List.length_cons]; omega)]

end Sys2Proof.Machine
end

