-- ==== Sys2Proof/Laws/State.lean ====
section
/-! SUPPORT. One lemma per field per update, true by rfl, so that no proof unfolds a record update. -/

namespace Sys2Proof.Machine

variable (s : State)

/-! ## setReg -/

@[simp] theorem State.setReg_v (r : Reg) (b : Byte) : (s.setReg r b).v = s.v.set r b := rfl
@[simp] theorem State.setReg_i (r : Reg) (b : Byte) : (s.setReg r b).i = s.i := rfl
@[simp] theorem State.setReg_pc (r : Reg) (b : Byte) : (s.setReg r b).pc = s.pc := rfl
@[simp] theorem State.setReg_dt (r : Reg) (b : Byte) : (s.setReg r b).dt = s.dt := rfl
@[simp] theorem State.setReg_st (r : Reg) (b : Byte) : (s.setReg r b).st = s.st := rfl
@[simp] theorem State.setReg_stack (r : Reg) (b : Byte) : (s.setReg r b).stack = s.stack := rfl
@[simp] theorem State.setReg_mem (r : Reg) (b : Byte) : (s.setReg r b).mem = s.mem := rfl
@[simp] theorem State.setReg_fb (r : Reg) (b : Byte) : (s.setReg r b).fb = s.fb := rfl
@[simp] theorem State.setReg_dirty (r : Reg) (b : Byte) : (s.setReg r b).dirty = s.dirty := rfl
@[simp] theorem State.setReg_keys (r : Reg) (b : Byte) : (s.setReg r b).keys = s.keys := rfl
@[simp] theorem State.setReg_run (r : Reg) (b : Byte) : (s.setReg r b).run = s.run := rfl
@[simp] theorem State.setReg_fault (r : Reg) (b : Byte) : (s.setReg r b).fault = s.fault := rfl
@[simp] theorem State.setReg_reports (r : Reg) (b : Byte) : (s.setReg r b).reports = s.reports := rfl
@[simp] theorem State.setReg_draws (r : Reg) (b : Byte) : (s.setReg r b).draws = s.draws := rfl
@[simp] theorem State.setReg_stackDepth (r : Reg) (b : Byte) : (s.setReg r b).stackDepth = s.stackDepth := rfl

/-! ## setI -/

@[simp] theorem State.setI_v (w : Word) : (s.setI w).v = s.v := rfl
@[simp] theorem State.setI_i (w : Word) : (s.setI w).i = w := rfl
@[simp] theorem State.setI_pc (w : Word) : (s.setI w).pc = s.pc := rfl
@[simp] theorem State.setI_dt (w : Word) : (s.setI w).dt = s.dt := rfl
@[simp] theorem State.setI_st (w : Word) : (s.setI w).st = s.st := rfl
@[simp] theorem State.setI_stack (w : Word) : (s.setI w).stack = s.stack := rfl
@[simp] theorem State.setI_mem (w : Word) : (s.setI w).mem = s.mem := rfl
@[simp] theorem State.setI_fb (w : Word) : (s.setI w).fb = s.fb := rfl
@[simp] theorem State.setI_dirty (w : Word) : (s.setI w).dirty = s.dirty := rfl
@[simp] theorem State.setI_keys (w : Word) : (s.setI w).keys = s.keys := rfl
@[simp] theorem State.setI_run (w : Word) : (s.setI w).run = s.run := rfl
@[simp] theorem State.setI_fault (w : Word) : (s.setI w).fault = s.fault := rfl
@[simp] theorem State.setI_reports (w : Word) : (s.setI w).reports = s.reports := rfl
@[simp] theorem State.setI_draws (w : Word) : (s.setI w).draws = s.draws := rfl
@[simp] theorem State.setI_stackDepth (w : Word) : (s.setI w).stackDepth = s.stackDepth := rfl

/-! ## setPc -/

@[simp] theorem State.setPc_v (w : Word) : (s.setPc w).v = s.v := rfl
@[simp] theorem State.setPc_i (w : Word) : (s.setPc w).i = s.i := rfl
@[simp] theorem State.setPc_pc (w : Word) : (s.setPc w).pc = w := rfl
@[simp] theorem State.setPc_dt (w : Word) : (s.setPc w).dt = s.dt := rfl
@[simp] theorem State.setPc_st (w : Word) : (s.setPc w).st = s.st := rfl
@[simp] theorem State.setPc_stack (w : Word) : (s.setPc w).stack = s.stack := rfl
@[simp] theorem State.setPc_mem (w : Word) : (s.setPc w).mem = s.mem := rfl
@[simp] theorem State.setPc_fb (w : Word) : (s.setPc w).fb = s.fb := rfl
@[simp] theorem State.setPc_dirty (w : Word) : (s.setPc w).dirty = s.dirty := rfl
@[simp] theorem State.setPc_keys (w : Word) : (s.setPc w).keys = s.keys := rfl
@[simp] theorem State.setPc_run (w : Word) : (s.setPc w).run = s.run := rfl
@[simp] theorem State.setPc_fault (w : Word) : (s.setPc w).fault = s.fault := rfl
@[simp] theorem State.setPc_reports (w : Word) : (s.setPc w).reports = s.reports := rfl
@[simp] theorem State.setPc_draws (w : Word) : (s.setPc w).draws = s.draws := rfl
@[simp] theorem State.setPc_stackDepth (w : Word) : (s.setPc w).stackDepth = s.stackDepth := rfl

/-! ## setDT -/

@[simp] theorem State.setDT_v (b : Byte) : (s.setDT b).v = s.v := rfl
@[simp] theorem State.setDT_i (b : Byte) : (s.setDT b).i = s.i := rfl
@[simp] theorem State.setDT_pc (b : Byte) : (s.setDT b).pc = s.pc := rfl
@[simp] theorem State.setDT_dt (b : Byte) : (s.setDT b).dt = b := rfl
@[simp] theorem State.setDT_st (b : Byte) : (s.setDT b).st = s.st := rfl
@[simp] theorem State.setDT_stack (b : Byte) : (s.setDT b).stack = s.stack := rfl
@[simp] theorem State.setDT_mem (b : Byte) : (s.setDT b).mem = s.mem := rfl
@[simp] theorem State.setDT_fb (b : Byte) : (s.setDT b).fb = s.fb := rfl
@[simp] theorem State.setDT_dirty (b : Byte) : (s.setDT b).dirty = s.dirty := rfl
@[simp] theorem State.setDT_keys (b : Byte) : (s.setDT b).keys = s.keys := rfl
@[simp] theorem State.setDT_run (b : Byte) : (s.setDT b).run = s.run := rfl
@[simp] theorem State.setDT_fault (b : Byte) : (s.setDT b).fault = s.fault := rfl
@[simp] theorem State.setDT_reports (b : Byte) : (s.setDT b).reports = s.reports := rfl
@[simp] theorem State.setDT_draws (b : Byte) : (s.setDT b).draws = s.draws := rfl
@[simp] theorem State.setDT_stackDepth (b : Byte) : (s.setDT b).stackDepth = s.stackDepth := rfl

/-! ## setST -/

@[simp] theorem State.setST_v (b : Byte) : (s.setST b).v = s.v := rfl
@[simp] theorem State.setST_i (b : Byte) : (s.setST b).i = s.i := rfl
@[simp] theorem State.setST_pc (b : Byte) : (s.setST b).pc = s.pc := rfl
@[simp] theorem State.setST_dt (b : Byte) : (s.setST b).dt = s.dt := rfl
@[simp] theorem State.setST_st (b : Byte) : (s.setST b).st = b := rfl
@[simp] theorem State.setST_stack (b : Byte) : (s.setST b).stack = s.stack := rfl
@[simp] theorem State.setST_mem (b : Byte) : (s.setST b).mem = s.mem := rfl
@[simp] theorem State.setST_fb (b : Byte) : (s.setST b).fb = s.fb := rfl
@[simp] theorem State.setST_dirty (b : Byte) : (s.setST b).dirty = s.dirty := rfl
@[simp] theorem State.setST_keys (b : Byte) : (s.setST b).keys = s.keys := rfl
@[simp] theorem State.setST_run (b : Byte) : (s.setST b).run = s.run := rfl
@[simp] theorem State.setST_fault (b : Byte) : (s.setST b).fault = s.fault := rfl
@[simp] theorem State.setST_reports (b : Byte) : (s.setST b).reports = s.reports := rfl
@[simp] theorem State.setST_draws (b : Byte) : (s.setST b).draws = s.draws := rfl
@[simp] theorem State.setST_stackDepth (b : Byte) : (s.setST b).stackDepth = s.stackDepth := rfl

/-! ## setStack -/

@[simp] theorem State.setStack_v (l : List Word) : (s.setStack l).v = s.v := rfl
@[simp] theorem State.setStack_i (l : List Word) : (s.setStack l).i = s.i := rfl
@[simp] theorem State.setStack_pc (l : List Word) : (s.setStack l).pc = s.pc := rfl
@[simp] theorem State.setStack_dt (l : List Word) : (s.setStack l).dt = s.dt := rfl
@[simp] theorem State.setStack_st (l : List Word) : (s.setStack l).st = s.st := rfl
@[simp] theorem State.setStack_stack (l : List Word) : (s.setStack l).stack = l := rfl
@[simp] theorem State.setStack_mem (l : List Word) : (s.setStack l).mem = s.mem := rfl
@[simp] theorem State.setStack_fb (l : List Word) : (s.setStack l).fb = s.fb := rfl
@[simp] theorem State.setStack_dirty (l : List Word) : (s.setStack l).dirty = s.dirty := rfl
@[simp] theorem State.setStack_keys (l : List Word) : (s.setStack l).keys = s.keys := rfl
@[simp] theorem State.setStack_run (l : List Word) : (s.setStack l).run = s.run := rfl
@[simp] theorem State.setStack_fault (l : List Word) : (s.setStack l).fault = s.fault := rfl
@[simp] theorem State.setStack_reports (l : List Word) : (s.setStack l).reports = s.reports := rfl
@[simp] theorem State.setStack_draws (l : List Word) : (s.setStack l).draws = s.draws := rfl
@[simp] theorem State.setStack_stackDepth (l : List Word) : (s.setStack l).stackDepth = s.stackDepth := rfl

/-! ## setMem -/

@[simp] theorem State.setMem_v (m : Memory) : (s.setMem m).v = s.v := rfl
@[simp] theorem State.setMem_i (m : Memory) : (s.setMem m).i = s.i := rfl
@[simp] theorem State.setMem_pc (m : Memory) : (s.setMem m).pc = s.pc := rfl
@[simp] theorem State.setMem_dt (m : Memory) : (s.setMem m).dt = s.dt := rfl
@[simp] theorem State.setMem_st (m : Memory) : (s.setMem m).st = s.st := rfl
@[simp] theorem State.setMem_stack (m : Memory) : (s.setMem m).stack = s.stack := rfl
@[simp] theorem State.setMem_mem (m : Memory) : (s.setMem m).mem = m := rfl
@[simp] theorem State.setMem_fb (m : Memory) : (s.setMem m).fb = s.fb := rfl
@[simp] theorem State.setMem_dirty (m : Memory) : (s.setMem m).dirty = s.dirty := rfl
@[simp] theorem State.setMem_keys (m : Memory) : (s.setMem m).keys = s.keys := rfl
@[simp] theorem State.setMem_run (m : Memory) : (s.setMem m).run = s.run := rfl
@[simp] theorem State.setMem_fault (m : Memory) : (s.setMem m).fault = s.fault := rfl
@[simp] theorem State.setMem_reports (m : Memory) : (s.setMem m).reports = s.reports := rfl
@[simp] theorem State.setMem_draws (m : Memory) : (s.setMem m).draws = s.draws := rfl
@[simp] theorem State.setMem_stackDepth (m : Memory) : (s.setMem m).stackDepth = s.stackDepth := rfl

/-! ## storeBytes -/

@[simp] theorem State.storeBytes_v (a : Nat) (bs : List Byte) : (s.storeBytes a bs).v = s.v := rfl
@[simp] theorem State.storeBytes_i (a : Nat) (bs : List Byte) : (s.storeBytes a bs).i = s.i := rfl
@[simp] theorem State.storeBytes_pc (a : Nat) (bs : List Byte) : (s.storeBytes a bs).pc = s.pc := rfl
@[simp] theorem State.storeBytes_dt (a : Nat) (bs : List Byte) : (s.storeBytes a bs).dt = s.dt := rfl
@[simp] theorem State.storeBytes_st (a : Nat) (bs : List Byte) : (s.storeBytes a bs).st = s.st := rfl
@[simp] theorem State.storeBytes_stack (a : Nat) (bs : List Byte) : (s.storeBytes a bs).stack = s.stack := rfl
@[simp] theorem State.storeBytes_mem (a : Nat) (bs : List Byte) : (s.storeBytes a bs).mem = Memory.writeBytes s.mem a bs := rfl
@[simp] theorem State.storeBytes_fb (a : Nat) (bs : List Byte) : (s.storeBytes a bs).fb = s.fb := rfl
@[simp] theorem State.storeBytes_dirty (a : Nat) (bs : List Byte) : (s.storeBytes a bs).dirty = s.dirty := rfl
@[simp] theorem State.storeBytes_keys (a : Nat) (bs : List Byte) : (s.storeBytes a bs).keys = s.keys := rfl
@[simp] theorem State.storeBytes_run (a : Nat) (bs : List Byte) : (s.storeBytes a bs).run = s.run := rfl
@[simp] theorem State.storeBytes_fault (a : Nat) (bs : List Byte) : (s.storeBytes a bs).fault = s.fault := rfl
@[simp] theorem State.storeBytes_reports (a : Nat) (bs : List Byte) : (s.storeBytes a bs).reports = s.reports := rfl
@[simp] theorem State.storeBytes_draws (a : Nat) (bs : List Byte) : (s.storeBytes a bs).draws = s.draws := rfl
@[simp] theorem State.storeBytes_stackDepth (a : Nat) (bs : List Byte) : (s.storeBytes a bs).stackDepth = s.stackDepth := rfl

/-! ## setFb -/

@[simp] theorem State.setFb_v (fb : FrameBuffer) : (s.setFb fb).v = s.v := rfl
@[simp] theorem State.setFb_i (fb : FrameBuffer) : (s.setFb fb).i = s.i := rfl
@[simp] theorem State.setFb_pc (fb : FrameBuffer) : (s.setFb fb).pc = s.pc := rfl
@[simp] theorem State.setFb_dt (fb : FrameBuffer) : (s.setFb fb).dt = s.dt := rfl
@[simp] theorem State.setFb_st (fb : FrameBuffer) : (s.setFb fb).st = s.st := rfl
@[simp] theorem State.setFb_stack (fb : FrameBuffer) : (s.setFb fb).stack = s.stack := rfl
@[simp] theorem State.setFb_mem (fb : FrameBuffer) : (s.setFb fb).mem = s.mem := rfl
@[simp] theorem State.setFb_fb (fb : FrameBuffer) : (s.setFb fb).fb = fb := rfl
@[simp] theorem State.setFb_dirty (fb : FrameBuffer) : (s.setFb fb).dirty = s.dirty := rfl
@[simp] theorem State.setFb_keys (fb : FrameBuffer) : (s.setFb fb).keys = s.keys := rfl
@[simp] theorem State.setFb_run (fb : FrameBuffer) : (s.setFb fb).run = s.run := rfl
@[simp] theorem State.setFb_fault (fb : FrameBuffer) : (s.setFb fb).fault = s.fault := rfl
@[simp] theorem State.setFb_reports (fb : FrameBuffer) : (s.setFb fb).reports = s.reports := rfl
@[simp] theorem State.setFb_draws (fb : FrameBuffer) : (s.setFb fb).draws = s.draws := rfl
@[simp] theorem State.setFb_stackDepth (fb : FrameBuffer) : (s.setFb fb).stackDepth = s.stackDepth := rfl

/-! ## setDirty -/

@[simp] theorem State.setDirty_v (b : Bool) : (s.setDirty b).v = s.v := rfl
@[simp] theorem State.setDirty_i (b : Bool) : (s.setDirty b).i = s.i := rfl
@[simp] theorem State.setDirty_pc (b : Bool) : (s.setDirty b).pc = s.pc := rfl
@[simp] theorem State.setDirty_dt (b : Bool) : (s.setDirty b).dt = s.dt := rfl
@[simp] theorem State.setDirty_st (b : Bool) : (s.setDirty b).st = s.st := rfl
@[simp] theorem State.setDirty_stack (b : Bool) : (s.setDirty b).stack = s.stack := rfl
@[simp] theorem State.setDirty_mem (b : Bool) : (s.setDirty b).mem = s.mem := rfl
@[simp] theorem State.setDirty_fb (b : Bool) : (s.setDirty b).fb = s.fb := rfl
@[simp] theorem State.setDirty_dirty (b : Bool) : (s.setDirty b).dirty = b := rfl
@[simp] theorem State.setDirty_keys (b : Bool) : (s.setDirty b).keys = s.keys := rfl
@[simp] theorem State.setDirty_run (b : Bool) : (s.setDirty b).run = s.run := rfl
@[simp] theorem State.setDirty_fault (b : Bool) : (s.setDirty b).fault = s.fault := rfl
@[simp] theorem State.setDirty_reports (b : Bool) : (s.setDirty b).reports = s.reports := rfl
@[simp] theorem State.setDirty_draws (b : Bool) : (s.setDirty b).draws = s.draws := rfl
@[simp] theorem State.setDirty_stackDepth (b : Bool) : (s.setDirty b).stackDepth = s.stackDepth := rfl

/-! ## setKey -/

@[simp] theorem State.setKey_v (k : Key) (b : Bool) : (s.setKey k b).v = s.v := rfl
@[simp] theorem State.setKey_i (k : Key) (b : Bool) : (s.setKey k b).i = s.i := rfl
@[simp] theorem State.setKey_pc (k : Key) (b : Bool) : (s.setKey k b).pc = s.pc := rfl
@[simp] theorem State.setKey_dt (k : Key) (b : Bool) : (s.setKey k b).dt = s.dt := rfl
@[simp] theorem State.setKey_st (k : Key) (b : Bool) : (s.setKey k b).st = s.st := rfl
@[simp] theorem State.setKey_stack (k : Key) (b : Bool) : (s.setKey k b).stack = s.stack := rfl
@[simp] theorem State.setKey_mem (k : Key) (b : Bool) : (s.setKey k b).mem = s.mem := rfl
@[simp] theorem State.setKey_fb (k : Key) (b : Bool) : (s.setKey k b).fb = s.fb := rfl
@[simp] theorem State.setKey_dirty (k : Key) (b : Bool) : (s.setKey k b).dirty = s.dirty := rfl
@[simp] theorem State.setKey_keys (k : Key) (b : Bool) : (s.setKey k b).keys = s.keys.set k b := rfl
@[simp] theorem State.setKey_run (k : Key) (b : Bool) : (s.setKey k b).run = s.run := rfl
@[simp] theorem State.setKey_fault (k : Key) (b : Bool) : (s.setKey k b).fault = s.fault := rfl
@[simp] theorem State.setKey_reports (k : Key) (b : Bool) : (s.setKey k b).reports = s.reports := rfl
@[simp] theorem State.setKey_draws (k : Key) (b : Bool) : (s.setKey k b).draws = s.draws := rfl
@[simp] theorem State.setKey_stackDepth (k : Key) (b : Bool) : (s.setKey k b).stackDepth = s.stackDepth := rfl

/-! ## setRun -/

@[simp] theorem State.setRun_v (r : RunState) : (s.setRun r).v = s.v := rfl
@[simp] theorem State.setRun_i (r : RunState) : (s.setRun r).i = s.i := rfl
@[simp] theorem State.setRun_pc (r : RunState) : (s.setRun r).pc = s.pc := rfl
@[simp] theorem State.setRun_dt (r : RunState) : (s.setRun r).dt = s.dt := rfl
@[simp] theorem State.setRun_st (r : RunState) : (s.setRun r).st = s.st := rfl
@[simp] theorem State.setRun_stack (r : RunState) : (s.setRun r).stack = s.stack := rfl
@[simp] theorem State.setRun_mem (r : RunState) : (s.setRun r).mem = s.mem := rfl
@[simp] theorem State.setRun_fb (r : RunState) : (s.setRun r).fb = s.fb := rfl
@[simp] theorem State.setRun_dirty (r : RunState) : (s.setRun r).dirty = s.dirty := rfl
@[simp] theorem State.setRun_keys (r : RunState) : (s.setRun r).keys = s.keys := rfl
@[simp] theorem State.setRun_run (r : RunState) : (s.setRun r).run = r := rfl
@[simp] theorem State.setRun_fault (r : RunState) : (s.setRun r).fault = s.fault := rfl
@[simp] theorem State.setRun_reports (r : RunState) : (s.setRun r).reports = s.reports := rfl
@[simp] theorem State.setRun_draws (r : RunState) : (s.setRun r).draws = s.draws := rfl
@[simp] theorem State.setRun_stackDepth (r : RunState) : (s.setRun r).stackDepth = s.stackDepth := rfl

/-! ## report -/

@[simp] theorem State.report_v (op : Word) : (s.report op).v = s.v := rfl
@[simp] theorem State.report_i (op : Word) : (s.report op).i = s.i := rfl
@[simp] theorem State.report_pc (op : Word) : (s.report op).pc = s.pc := rfl
@[simp] theorem State.report_dt (op : Word) : (s.report op).dt = s.dt := rfl
@[simp] theorem State.report_st (op : Word) : (s.report op).st = s.st := rfl
@[simp] theorem State.report_stack (op : Word) : (s.report op).stack = s.stack := rfl
@[simp] theorem State.report_mem (op : Word) : (s.report op).mem = s.mem := rfl
@[simp] theorem State.report_fb (op : Word) : (s.report op).fb = s.fb := rfl
@[simp] theorem State.report_dirty (op : Word) : (s.report op).dirty = s.dirty := rfl
@[simp] theorem State.report_keys (op : Word) : (s.report op).keys = s.keys := rfl
@[simp] theorem State.report_run (op : Word) : (s.report op).run = s.run := rfl
@[simp] theorem State.report_fault (op : Word) : (s.report op).fault = s.fault := rfl
@[simp] theorem State.report_reports (op : Word) : (s.report op).reports = s.reports ++ [⟨s.pc, op⟩] := rfl
@[simp] theorem State.report_draws (op : Word) : (s.report op).draws = s.draws := rfl
@[simp] theorem State.report_stackDepth (op : Word) : (s.report op).stackDepth = s.stackDepth := rfl

/-! ## countDraw -/

@[simp] theorem State.countDraw_v : (s.countDraw).v = s.v := rfl
@[simp] theorem State.countDraw_i : (s.countDraw).i = s.i := rfl
@[simp] theorem State.countDraw_pc : (s.countDraw).pc = s.pc := rfl
@[simp] theorem State.countDraw_dt : (s.countDraw).dt = s.dt := rfl
@[simp] theorem State.countDraw_st : (s.countDraw).st = s.st := rfl
@[simp] theorem State.countDraw_stack : (s.countDraw).stack = s.stack := rfl
@[simp] theorem State.countDraw_mem : (s.countDraw).mem = s.mem := rfl
@[simp] theorem State.countDraw_fb : (s.countDraw).fb = s.fb := rfl
@[simp] theorem State.countDraw_dirty : (s.countDraw).dirty = s.dirty := rfl
@[simp] theorem State.countDraw_keys : (s.countDraw).keys = s.keys := rfl
@[simp] theorem State.countDraw_run : (s.countDraw).run = s.run := rfl
@[simp] theorem State.countDraw_fault : (s.countDraw).fault = s.fault := rfl
@[simp] theorem State.countDraw_reports : (s.countDraw).reports = s.reports := rfl
@[simp] theorem State.countDraw_draws : (s.countDraw).draws = s.draws + 1 := rfl
@[simp] theorem State.countDraw_stackDepth : (s.countDraw).stackDepth = s.stackDepth := rfl

/-! ## raise -/

@[simp] theorem State.raise_v (c : Cause) (op : Word) : (s.raise c op).v = s.v := rfl
@[simp] theorem State.raise_i (c : Cause) (op : Word) : (s.raise c op).i = s.i := rfl
@[simp] theorem State.raise_pc (c : Cause) (op : Word) : (s.raise c op).pc = s.pc := rfl
@[simp] theorem State.raise_dt (c : Cause) (op : Word) : (s.raise c op).dt = s.dt := rfl
@[simp] theorem State.raise_st (c : Cause) (op : Word) : (s.raise c op).st = s.st := rfl
@[simp] theorem State.raise_stack (c : Cause) (op : Word) : (s.raise c op).stack = s.stack := rfl
@[simp] theorem State.raise_mem (c : Cause) (op : Word) : (s.raise c op).mem = s.mem := rfl
@[simp] theorem State.raise_fb (c : Cause) (op : Word) : (s.raise c op).fb = s.fb := rfl
@[simp] theorem State.raise_dirty (c : Cause) (op : Word) : (s.raise c op).dirty = s.dirty := rfl
@[simp] theorem State.raise_keys (c : Cause) (op : Word) : (s.raise c op).keys = s.keys := rfl
@[simp] theorem State.raise_run (c : Cause) (op : Word) : (s.raise c op).run = .faulted := rfl
@[simp] theorem State.raise_fault (c : Cause) (op : Word) : (s.raise c op).fault = some ⟨c, s.pc, op⟩ := rfl
@[simp] theorem State.raise_reports (c : Cause) (op : Word) : (s.raise c op).reports = s.reports := rfl
@[simp] theorem State.raise_draws (c : Cause) (op : Word) : (s.raise c op).draws = s.draws := rfl
@[simp] theorem State.raise_stackDepth (c : Cause) (op : Word) : (s.raise c op).stackDepth = s.stackDepth := rfl

/-! ## advance -/

@[simp] theorem State.advance_v : (s.advance).v = s.v := rfl
@[simp] theorem State.advance_i : (s.advance).i = s.i := rfl
@[simp] theorem State.advance_pc : (s.advance).pc = s.pc + 2#16 := rfl
@[simp] theorem State.advance_dt : (s.advance).dt = s.dt := rfl
@[simp] theorem State.advance_st : (s.advance).st = s.st := rfl
@[simp] theorem State.advance_stack : (s.advance).stack = s.stack := rfl
@[simp] theorem State.advance_mem : (s.advance).mem = s.mem := rfl
@[simp] theorem State.advance_fb : (s.advance).fb = s.fb := rfl
@[simp] theorem State.advance_dirty : (s.advance).dirty = s.dirty := rfl
@[simp] theorem State.advance_keys : (s.advance).keys = s.keys := rfl
@[simp] theorem State.advance_run : (s.advance).run = s.run := rfl
@[simp] theorem State.advance_fault : (s.advance).fault = s.fault := rfl
@[simp] theorem State.advance_reports : (s.advance).reports = s.reports := rfl
@[simp] theorem State.advance_draws : (s.advance).draws = s.draws := rfl
@[simp] theorem State.advance_stackDepth : (s.advance).stackDepth = s.stackDepth := rfl

/-! ## skipIf -/

@[simp] theorem State.skipIf_v (c : Bool) : (s.skipIf c).v = s.v := by cases c <;> rfl
@[simp] theorem State.skipIf_i (c : Bool) : (s.skipIf c).i = s.i := by cases c <;> rfl
theorem State.skipIf_pc (c : Bool) : (s.skipIf c).pc = if c then s.pc + 4#16 else s.pc + 2#16 := by cases c <;> rfl
@[simp] theorem State.skipIf_dt (c : Bool) : (s.skipIf c).dt = s.dt := by cases c <;> rfl
@[simp] theorem State.skipIf_st (c : Bool) : (s.skipIf c).st = s.st := by cases c <;> rfl
@[simp] theorem State.skipIf_stack (c : Bool) : (s.skipIf c).stack = s.stack := by cases c <;> rfl
@[simp] theorem State.skipIf_mem (c : Bool) : (s.skipIf c).mem = s.mem := by cases c <;> rfl
@[simp] theorem State.skipIf_fb (c : Bool) : (s.skipIf c).fb = s.fb := by cases c <;> rfl
@[simp] theorem State.skipIf_dirty (c : Bool) : (s.skipIf c).dirty = s.dirty := by cases c <;> rfl
@[simp] theorem State.skipIf_keys (c : Bool) : (s.skipIf c).keys = s.keys := by cases c <;> rfl
@[simp] theorem State.skipIf_run (c : Bool) : (s.skipIf c).run = s.run := by cases c <;> rfl
@[simp] theorem State.skipIf_fault (c : Bool) : (s.skipIf c).fault = s.fault := by cases c <;> rfl
@[simp] theorem State.skipIf_reports (c : Bool) : (s.skipIf c).reports = s.reports := by cases c <;> rfl
@[simp] theorem State.skipIf_draws (c : Bool) : (s.skipIf c).draws = s.draws := by cases c <;> rfl
@[simp] theorem State.skipIf_stackDepth (c : Bool) : (s.skipIf c).stackDepth = s.stackDepth := by cases c <;> rfl

/-! ## reg, readByte and key after an update of something else -/

@[simp] theorem State.reg_setI (w : Word) (q : Reg) : (s.setI w).reg q = s.reg q := rfl
@[simp] theorem State.reg_setPc (w : Word) (q : Reg) : (s.setPc w).reg q = s.reg q := rfl
@[simp] theorem State.reg_setDT (b : Byte) (q : Reg) : (s.setDT b).reg q = s.reg q := rfl
@[simp] theorem State.reg_setST (b : Byte) (q : Reg) : (s.setST b).reg q = s.reg q := rfl
@[simp] theorem State.reg_setStack (l : List Word) (q : Reg) : (s.setStack l).reg q = s.reg q := rfl
@[simp] theorem State.reg_setMem (m : Memory) (q : Reg) : (s.setMem m).reg q = s.reg q := rfl
@[simp] theorem State.reg_storeBytes (a : Nat) (bs : List Byte) (q : Reg) : (s.storeBytes a bs).reg q = s.reg q := rfl
@[simp] theorem State.reg_setFb (fb : FrameBuffer) (q : Reg) : (s.setFb fb).reg q = s.reg q := rfl
@[simp] theorem State.reg_setDirty (b : Bool) (q : Reg) : (s.setDirty b).reg q = s.reg q := rfl
@[simp] theorem State.reg_setKey (k : Key) (b : Bool) (q : Reg) : (s.setKey k b).reg q = s.reg q := rfl
@[simp] theorem State.reg_setRun (r : RunState) (q : Reg) : (s.setRun r).reg q = s.reg q := rfl
@[simp] theorem State.reg_report (op : Word) (q : Reg) : (s.report op).reg q = s.reg q := rfl
@[simp] theorem State.reg_countDraw (q : Reg) : (s.countDraw).reg q = s.reg q := rfl
@[simp] theorem State.reg_raise (c : Cause) (op : Word) (q : Reg) : (s.raise c op).reg q = s.reg q := rfl
@[simp] theorem State.reg_advance (q : Reg) : (s.advance).reg q = s.reg q := rfl
@[simp] theorem State.reg_skipIf (c : Bool) (q : Reg) : (s.skipIf c).reg q = s.reg q := by cases c <;> rfl
@[simp] theorem State.readByte_setReg (r : Reg) (b : Byte) (a' : Nat) : (s.setReg r b).readByte a' = s.readByte a' := rfl
@[simp] theorem State.readByte_setI (w : Word) (a' : Nat) : (s.setI w).readByte a' = s.readByte a' := rfl
@[simp] theorem State.readByte_setPc (w : Word) (a' : Nat) : (s.setPc w).readByte a' = s.readByte a' := rfl
@[simp] theorem State.readByte_setDT (b : Byte) (a' : Nat) : (s.setDT b).readByte a' = s.readByte a' := rfl
@[simp] theorem State.readByte_setST (b : Byte) (a' : Nat) : (s.setST b).readByte a' = s.readByte a' := rfl
@[simp] theorem State.readByte_setStack (l : List Word) (a' : Nat) : (s.setStack l).readByte a' = s.readByte a' := rfl
@[simp] theorem State.readByte_setFb (fb : FrameBuffer) (a' : Nat) : (s.setFb fb).readByte a' = s.readByte a' := rfl
@[simp] theorem State.readByte_setDirty (b : Bool) (a' : Nat) : (s.setDirty b).readByte a' = s.readByte a' := rfl
@[simp] theorem State.readByte_setKey (k : Key) (b : Bool) (a' : Nat) : (s.setKey k b).readByte a' = s.readByte a' := rfl
@[simp] theorem State.readByte_setRun (r : RunState) (a' : Nat) : (s.setRun r).readByte a' = s.readByte a' := rfl
@[simp] theorem State.readByte_report (op : Word) (a' : Nat) : (s.report op).readByte a' = s.readByte a' := rfl
@[simp] theorem State.readByte_countDraw (a' : Nat) : (s.countDraw).readByte a' = s.readByte a' := rfl
@[simp] theorem State.readByte_raise (c : Cause) (op : Word) (a' : Nat) : (s.raise c op).readByte a' = s.readByte a' := rfl
@[simp] theorem State.readByte_advance (a' : Nat) : (s.advance).readByte a' = s.readByte a' := rfl
@[simp] theorem State.readByte_skipIf (c : Bool) (a' : Nat) : (s.skipIf c).readByte a' = s.readByte a' := by cases c <;> rfl
@[simp] theorem State.key_setReg (r : Reg) (b : Byte) (k' : Key) : (s.setReg r b).key k' = s.key k' := rfl
@[simp] theorem State.key_setI (w : Word) (k' : Key) : (s.setI w).key k' = s.key k' := rfl
@[simp] theorem State.key_setPc (w : Word) (k' : Key) : (s.setPc w).key k' = s.key k' := rfl
@[simp] theorem State.key_setDT (b : Byte) (k' : Key) : (s.setDT b).key k' = s.key k' := rfl
@[simp] theorem State.key_setST (b : Byte) (k' : Key) : (s.setST b).key k' = s.key k' := rfl
@[simp] theorem State.key_setStack (l : List Word) (k' : Key) : (s.setStack l).key k' = s.key k' := rfl
@[simp] theorem State.key_setMem (m : Memory) (k' : Key) : (s.setMem m).key k' = s.key k' := rfl
@[simp] theorem State.key_storeBytes (a : Nat) (bs : List Byte) (k' : Key) : (s.storeBytes a bs).key k' = s.key k' := rfl
@[simp] theorem State.key_setFb (fb : FrameBuffer) (k' : Key) : (s.setFb fb).key k' = s.key k' := rfl
@[simp] theorem State.key_setDirty (b : Bool) (k' : Key) : (s.setDirty b).key k' = s.key k' := rfl
@[simp] theorem State.key_setRun (r : RunState) (k' : Key) : (s.setRun r).key k' = s.key k' := rfl
@[simp] theorem State.key_report (op : Word) (k' : Key) : (s.report op).key k' = s.key k' := rfl
@[simp] theorem State.key_countDraw (k' : Key) : (s.countDraw).key k' = s.key k' := rfl
@[simp] theorem State.key_raise (c : Cause) (op : Word) (k' : Key) : (s.raise c op).key k' = s.key k' := rfl
@[simp] theorem State.key_advance (k' : Key) : (s.advance).key k' = s.key k' := rfl
@[simp] theorem State.key_skipIf (c : Bool) (k' : Key) : (s.skipIf c).key k' = s.key k' := by cases c <;> rfl

/-! ## setResultAndFlag stands on setReg (Machine/Flags.lean); the registers read -/

/-- Reading a register after writing one: the one written, or the others as before (R21). -/
theorem State.reg_setReg (r q : Reg) (b : Byte) : (s.setReg r b).reg q = if q = r then b else s.reg q := by
  by_cases h : q = r
  · subst h
    simp [State.reg, State.setReg]
  · have h' : r.val ≠ q.val := fun e => h (Fin.ext e.symm)
    simp [State.reg, State.setReg, h, h']

@[simp] theorem State.reg_setReg_same (r : Reg) (b : Byte) : (s.setReg r b).reg r = b := by simp [State.reg_setReg]

/-- Reading a key after writing one (R36). -/
theorem State.key_setKey (k q : Key) (b : Bool) : (s.setKey k b).key q = if q = k then b else s.key q := by
  by_cases h : q = k
  · subst h
    simp [State.key, State.setKey]
  · have h' : k.val ≠ q.val := fun e => h (Fin.ext e.symm)
    simp [State.key, State.setKey, h, h']

@[simp] theorem State.key_setKey_same (k : Key) (b : Bool) : (s.setKey k b).key k = b := by simp [State.key_setKey]

/-- A register depends on the register file only. -/
theorem State.reg_congr {t : State} (h : t.v = s.v) (r : Reg) : t.reg r = s.reg r := by simp only [State.reg, h]

/-- A key depends on the key flags only. -/
theorem State.key_congr {t : State} (h : t.keys = s.keys) (k : Key) : t.key k = s.key k := by simp only [State.key, h]

/-- A byte depends on the memory only. -/
theorem State.readByte_congr {t : State} (h : t.mem = s.mem) (a : Nat) : t.readByte a = s.readByte a := by
  simp only [State.readByte, h]

end Sys2Proof.Machine
end

