-- ==== Sys2Proof/Laws/Ops.lean ====
section
/-! SUPPORT. For each shared operation, once, everything it can do; the provers cite these. -/

namespace Sys2Proof.Machine

variable (s : State)

/-! ## Stack, fetch, fault -/

/-- `push` on a stack with room (R31). -/
theorem State.push_of_room {s : State} (h : s.stack.length < s.stackDepth) (w : Word) :
    s.push w = some (s.setStack (w :: s.stack)) := by simp [State.push, h]

/-- `push` on a full stack (R31). -/
theorem State.push_of_full {s : State} (h : ¬ s.stack.length < s.stackDepth) (w : Word) : s.push w = none := by
  simp [State.push, h]

/-- `pop` of the newest entry (R31). -/
theorem State.pop_of_cons {s : State} {w : Word} {rest : List Word} (h : s.stack = w :: rest) :
    s.pop = some (w, s.setStack rest) := by simp [State.pop, h]

/-- `pop` of an empty stack (R31). -/
theorem State.pop_of_nil {s : State} (h : s.stack = []) : s.pop = none := by simp [State.pop, h]

/-- The fetch inside the bank (R121). -/
theorem State.fetch_of_inside {s : State} (h : s.pc.toNat ≤ 0xFFE) :
    s.fetch = some (joinBytes (s.readByte s.pc.toNat) (s.readByte (s.pc.toNat + 1))) := by
  have : s.pc.toNat + 1 < Config.memSize := by simp only [Config.memSize]; omega
  simp [State.fetch, this]

/-- The fetch that would leave the bank (R121). -/
theorem State.fetch_of_outside {s : State} (h : 0xFFE < s.pc.toNat) : s.fetch = none := by
  have : ¬ s.pc.toNat + 1 < Config.memSize := by simp only [Config.memSize]; omega
  simp [State.fetch, this]

theorem faultOn_eq (c : Cause) (i : Instr) : faultOn c i s = .next (s.raise c (encode i)) := rfl

/-- `PC` after a skip instruction, as a number of bytes (R123). -/
theorem State.skipIf_pc_eq (c : Bool) : (s.skipIf c).pc = s.pc + (if c then 4#16 else 2#16) := by cases c <;> rfl

/-! ## Operands and flags -/

/-- The range test of a transfer (R65). -/
theorem State.spanFits_iff (last : Nat) : s.spanFits last = true ↔ s.i.toNat + last ≤ 0xFFF := by
  rw [State.spanFits, decide_eq_true_eq, Config.memSize]
  omega

/-- The range test of `Dxyn` (R65). -/
theorem State.spriteFits_iff (n : Nat) : s.spriteFits n = true ↔ (n = 0 ∨ s.i.toNat + n - 1 ≤ 0xFFF) := by
  simp only [State.spriteFits, Bool.or_eq_true, beq_iff_eq, State.spanFits_iff]; omega

theorem immAddr_toNat (nnn : Imm12) : (immAddr nnn).toNat = nnn.toNat := by
  have := nnn.isLt
  simp only [immAddr, BitVec.truncate_eq_setWidth, BitVec.toNat_setWidth]; omega

theorem regWord_toNat (b : Byte) : (regWord b).toNat = b.toNat := by
  have := b.isLt
  simp only [regWord, BitVec.truncate_eq_setWidth, BitVec.toNat_setWidth]; omega

/-- The glyph address is exact (R193). -/
theorem glyphAddr_toNat (b : Byte) : (glyphAddr b).toNat = b.toNat * 5 := by
  have := b.isLt
  simp only [glyphAddr, BitVec.toNat_mul, regWord_toNat, BitVec.toNat_ofNat]; omega

/-- A key index in range (R230). -/
theorem keyIndex_of_lt {b : Byte} (h : b.toNat < 16) : keyIndex b = some ⟨b.toNat, h⟩ := by simp [keyIndex, h]

/-- A key index out of range (R230). -/
theorem keyIndex_of_ge {b : Byte} (h : 16 ≤ b.toNat) : keyIndex b = none := by
  simp [keyIndex, Nat.not_lt.mpr h]

theorem Flags.ofBool_toNat (b : Bool) : (Flags.ofBool b).toNat = b.toNat := by cases b <;> rfl

/-- The registers after a flag-writing instruction: VF holds the flag, last (R160). -/
theorem State.reg_setResultAndFlag (x q : Reg) (b : Byte) (f : Bool) :
    (s.setResultAndFlag x b f).reg q = if q = vf then Flags.ofBool f else if q = x then b else s.reg q := by
  simp [State.setResultAndFlag, State.reg_setReg]

/-- A flag-writing end touches the register file only. -/
theorem State.setResultAndFlag_rest (x : Reg) (b : Byte) (f : Bool) :
    { s.setResultAndFlag x b f with v := s.v } = s := rfl

/-- `V[0]` to `V[x]` are `x + 1` bytes (R195). -/
theorem State.regBytes_length (x : Reg) : (s.regBytes x).length = x.val + 1 := by
  have := x.isLt
  simp only [State.regBytes, List.length_take, Vector.length_toList]; omega

/-- Byte `k` of the stored registers is `V[k]` (R195). -/
theorem State.regBytes_getElem (x : Reg) (k : Nat) (h : k < (s.regBytes x).length) :
    (s.regBytes x)[k] = s.reg ⟨k, by have := State.regBytes_length s x; omega⟩ := by
  simp [State.regBytes, State.reg]

@[simp] theorem decimalDigits_length (b : Byte) : (decimalDigits b).length = 3 := rfl

/-- The registers after a load (R196). -/
theorem State.loadedRegs_get (x q : Reg) :
    (s.loadedRegs x)[q] = if q ≤ x then s.readByte (s.i.toNat + q.val) else s.reg q := by
  simp [State.loadedRegs, State.effAddr]

/-! ## The cycle -/

/-- The cycle of a running core, one of three cases (R120, R121, R124). -/
theorem cycleRunning_cases :
    (0xFFE < s.pc.toNat ∧ cycleRunning s = .next (s.raise .fetchOutOfRange 0x0000#16)) ∨
    (∃ op why, s.pc.toNat ≤ 0xFFE ∧ s.fetch = some op ∧ decode op = .invalid why ∧
      cycleRunning s = .next (s.skipInvalid op)) ∨
    (∃ op i, s.pc.toNat ≤ 0xFFE ∧ s.fetch = some op ∧ decode op = .insn i ∧ cycleRunning s = exec i s) := by
  by_cases h : s.pc.toNat ≤ 0xFFE
  · have hf := State.fetch_of_inside h
    cases hd : decode (joinBytes (s.readByte s.pc.toNat) (s.readByte (s.pc.toNat + 1))) with
    | invalid why => exact .inr (.inl ⟨_, why, h, hf, hd, by simp [cycleRunning, hf, hd]⟩)
    | insn i => exact .inr (.inr ⟨_, i, h, hf, hd, by simp [cycleRunning, hf, hd]⟩)
  · have h' : 0xFFE < s.pc.toNat := by omega
    exact .inl ⟨h', by simp [cycleRunning, State.fetch_of_outside h']⟩

/-- What a cycle can do: hold, or run a running core (R120, R125, R126). -/
theorem cycle_cases :
    (s.run ≠ .running ∧ cycle s = .next s) ∨ (s.run = .running ∧ cycle s = cycleRunning s) := by
  unfold cycle
  split <;> simp_all

end Sys2Proof.Machine
end

