-- ==== Sys2Proof/Laws/PerInstr.lean ====
section
/-! SUPPORT. For each instruction: its word carries exactly the fixed bits of its row of the opcode map
(spec/30_encoding.md R96), so the row selects it. -/

namespace Sys2Proof

/-- The word with the mask 0xF000 keeps the field `t` (R91). -/
theorem and_F000 (op : Word) : op &&& 0xF000#16 = fieldT op ++ 0#12 := by
  apply BitVec.eq_of_getLsbD_eq
  intro k hk
  simp only [BitVec.getLsbD_and, fieldT, BitVec.getLsbD_append, BitVec.getLsbD_extractLsb']
  interval_cases k <;> simp

/-- The word with the mask 0xF00F keeps the fields `t` and `n` (R91). -/
theorem and_F00F (op : Word) : op &&& 0xF00F#16 = fieldT op ++ 0#8 ++ fieldN op := by
  apply BitVec.eq_of_getLsbD_eq
  intro k hk
  simp only [BitVec.getLsbD_and, fieldT, fieldN, BitVec.getLsbD_append, BitVec.getLsbD_extractLsb']
  interval_cases k <;> simp

/-- The word with the mask 0xF0FF keeps the fields `t` and `kk` (R91). -/
theorem and_F0FF (op : Word) : op &&& 0xF0FF#16 = fieldT op ++ 0#4 ++ fieldKK op := by
  apply BitVec.eq_of_getLsbD_eq
  intro k hk
  simp only [BitVec.getLsbD_and, fieldT, fieldKK, BitVec.getLsbD_append, BitVec.getLsbD_extractLsb']
  interval_cases k <;> simp

end Sys2Proof

namespace Sys2Proof.Laws.RowFits

/-- The word of an instruction matches the instruction's own row of the opcode map. -/
def Statement (i : Instr) : Prop := (rowOf i).selects (encode i) = true

theorem cls : Statement (.cls) := by
  simp [Statement, OpcodeRow.selects, rowOf, encode]

theorem ret : Statement (.ret) := by
  simp [Statement, OpcodeRow.selects, rowOf, encode]

theorem jp (nnn : Imm12) : Statement (.jp nnn) := by
  simp [Statement, OpcodeRow.selects, rowOf, encode, and_F000]

theorem call (nnn : Imm12) : Statement (.call nnn) := by
  simp [Statement, OpcodeRow.selects, rowOf, encode, and_F000]

theorem seImm (x : Reg) (kk : Byte) : Statement (.seImm x kk) := by
  simp [Statement, OpcodeRow.selects, rowOf, encode, and_F000]

theorem sneImm (x : Reg) (kk : Byte) : Statement (.sneImm x kk) := by
  simp [Statement, OpcodeRow.selects, rowOf, encode, and_F000]

theorem seReg (x : Reg) (y : Reg) : Statement (.seReg x y) := by
  simp [Statement, OpcodeRow.selects, rowOf, encode, and_F00F]

theorem ldImm (x : Reg) (kk : Byte) : Statement (.ldImm x kk) := by
  simp [Statement, OpcodeRow.selects, rowOf, encode, and_F000]

theorem addImm (x : Reg) (kk : Byte) : Statement (.addImm x kk) := by
  simp [Statement, OpcodeRow.selects, rowOf, encode, and_F000]

theorem ldReg (x : Reg) (y : Reg) : Statement (.ldReg x y) := by
  simp [Statement, OpcodeRow.selects, rowOf, encode, and_F00F]

theorem orReg (x : Reg) (y : Reg) : Statement (.orReg x y) := by
  simp [Statement, OpcodeRow.selects, rowOf, encode, and_F00F]

theorem andReg (x : Reg) (y : Reg) : Statement (.andReg x y) := by
  simp [Statement, OpcodeRow.selects, rowOf, encode, and_F00F]

theorem xorReg (x : Reg) (y : Reg) : Statement (.xorReg x y) := by
  simp [Statement, OpcodeRow.selects, rowOf, encode, and_F00F]

theorem addReg (x : Reg) (y : Reg) : Statement (.addReg x y) := by
  simp [Statement, OpcodeRow.selects, rowOf, encode, and_F00F]

theorem subReg (x : Reg) (y : Reg) : Statement (.subReg x y) := by
  simp [Statement, OpcodeRow.selects, rowOf, encode, and_F00F]

theorem shr (x : Reg) (y : Reg) : Statement (.shr x y) := by
  simp [Statement, OpcodeRow.selects, rowOf, encode, and_F00F]

theorem subnReg (x : Reg) (y : Reg) : Statement (.subnReg x y) := by
  simp [Statement, OpcodeRow.selects, rowOf, encode, and_F00F]

theorem shl (x : Reg) (y : Reg) : Statement (.shl x y) := by
  simp [Statement, OpcodeRow.selects, rowOf, encode, and_F00F]

theorem sneReg (x : Reg) (y : Reg) : Statement (.sneReg x y) := by
  simp [Statement, OpcodeRow.selects, rowOf, encode, and_F00F]

theorem ldI (nnn : Imm12) : Statement (.ldI nnn) := by
  simp [Statement, OpcodeRow.selects, rowOf, encode, and_F000]

theorem jpV0 (nnn : Imm12) : Statement (.jpV0 nnn) := by
  simp [Statement, OpcodeRow.selects, rowOf, encode, and_F000]

theorem rnd (x : Reg) (kk : Byte) : Statement (.rnd x kk) := by
  simp [Statement, OpcodeRow.selects, rowOf, encode, and_F000]

theorem drw (x : Reg) (y : Reg) (n : Nibble) : Statement (.drw x y n) := by
  simp [Statement, OpcodeRow.selects, rowOf, encode, and_F000]

theorem skp (x : Reg) : Statement (.skp x) := by
  simp [Statement, OpcodeRow.selects, rowOf, encode, and_F0FF]

theorem sknp (x : Reg) : Statement (.sknp x) := by
  simp [Statement, OpcodeRow.selects, rowOf, encode, and_F0FF]

theorem ldVxDT (x : Reg) : Statement (.ldVxDT x) := by
  simp [Statement, OpcodeRow.selects, rowOf, encode, and_F0FF]

theorem ldVxK (x : Reg) : Statement (.ldVxK x) := by
  simp [Statement, OpcodeRow.selects, rowOf, encode, and_F0FF]

theorem ldDTVx (x : Reg) : Statement (.ldDTVx x) := by
  simp [Statement, OpcodeRow.selects, rowOf, encode, and_F0FF]

theorem ldSTVx (x : Reg) : Statement (.ldSTVx x) := by
  simp [Statement, OpcodeRow.selects, rowOf, encode, and_F0FF]

theorem addI (x : Reg) : Statement (.addI x) := by
  simp [Statement, OpcodeRow.selects, rowOf, encode, and_F0FF]

theorem ldF (x : Reg) : Statement (.ldF x) := by
  simp [Statement, OpcodeRow.selects, rowOf, encode, and_F0FF]

theorem ldB (x : Reg) : Statement (.ldB x) := by
  simp [Statement, OpcodeRow.selects, rowOf, encode, and_F0FF]

theorem storeRegs (x : Reg) : Statement (.storeRegs x) := by
  simp [Statement, OpcodeRow.selects, rowOf, encode, and_F0FF]

theorem loadRegs (x : Reg) : Statement (.loadRegs x) := by
  simp [Statement, OpcodeRow.selects, rowOf, encode, and_F0FF]

end Sys2Proof.Laws.RowFits
end

