-- ==== Sys2Proof/Laws/Step.lean ====
section
/-! SUPPORT. What one step can do, said once; how frames compose; what a fault entry leaves; and the instructions with a
range test, one lemma for each side of the test. -/

namespace Sys2Proof.Machine

/-- Everything a step can do: hold, take the fetch fault, report and skip an invalid word, or run an instruction that was
fetched (R120, R121, R124, R125, R126). -/
theorem step_cases {s t : State} (h : step s = .next t) :
    (s.run ≠ .running ∧ t = s) ∨
    (s.run = .running ∧ 0xFFE < s.pc.toNat ∧ t = s.raise .fetchOutOfRange 0x0000#16) ∨
    (s.run = .running ∧ s.pc.toNat ≤ 0xFFE ∧ ∃ op why, s.fetch = some op ∧ decode op = .invalid why ∧
      t = s.skipInvalid op) ∨
    (s.run = .running ∧ s.pc.toNat ≤ 0xFFE ∧ ∃ op i, s.fetch = some op ∧ decode op = .insn i ∧ exec i s = .next t) := by
  rcases cycle_cases s with ⟨hr, hc⟩ | ⟨hr, hc⟩
  · have e := hc.symm.trans h
    cases e
    exact .inl ⟨hr, rfl⟩
  · have h := hc.symm.trans h
    rcases cycleRunning_cases s with ⟨hp, h2⟩ | ⟨op, why, hp, hf, hd, h2⟩ | ⟨op, i, hp, hf, hd, h2⟩
    · cases h2.symm.trans h
      exact .inr (.inl ⟨hr, hp, rfl⟩)
    · cases h2.symm.trans h
      exact .inr (.inr (.inl ⟨hr, hp, op, why, hf, hd, rfl⟩))
    · exact .inr (.inr (.inr ⟨hr, hp, op, i, hf, hd, h2.symm.trans h⟩))

/-! ## Frames -/

theorem Frame.refl (l : List Piece) (s : State) : Frame l s s := by
  intro f _
  cases f <;> simp [Piece.Same]

theorem Frame.trans {l : List Piece} {s t u : State} (h : Frame l s t) (h' : Frame l t u) : Frame l s u := by
  intro f hf
  have a := h f hf
  have b := h' f hf
  cases f <;> simp_all [Piece.Same]

/-- A frame with more pieces says less. -/
theorem Frame.weaken {l l' : List Piece} {s t : State} (h : Frame l s t) (sub : ∀ f ∈ l, f ∈ l') : Frame l' s t :=
  fun f hf => h f fun hl => hf (sub f hl)

/-- What a fault entry leaves (R256). -/
theorem Faults.of_raise (s : State) (c : Cause) (op : Word) : Faults c op s (s.raise c op) := by
  refine ⟨rfl, rfl, fun f hf => ?_⟩
  cases f <;> simp_all [Piece.Same]

/-! ## The instructions with a range test (R65) -/

theorem exec_storeRegs_inside {x : Reg} {s : State} (h : s.i.toNat + x.val ≤ 0xFFF) :
    exec (.storeRegs x) s = .next (s.storeBytes (s.effAddr 0) (s.regBytes x)).advance := by
  simp only [exec, execStoreRegs, (State.spanFits_iff s _).2 h, if_true]

theorem exec_storeRegs_outside {x : Reg} {s : State} (h : 0xFFF < s.i.toNat + x.val) :
    exec (.storeRegs x) s = .next (s.raise .memoryOutOfRange (encode (.storeRegs x))) := by
  have hs : ¬ s.spanFits x.val = true := by rw [State.spanFits_iff]; omega
  simp only [exec, execStoreRegs, hs]; rfl

theorem exec_loadRegs_inside {x : Reg} {s : State} (h : s.i.toNat + x.val ≤ 0xFFF) :
    exec (.loadRegs x) s = .next (State.advance { s with v := s.loadedRegs x }) := by
  simp only [exec, execLoadRegs, (State.spanFits_iff s _).2 h, if_true]

theorem exec_loadRegs_outside {x : Reg} {s : State} (h : 0xFFF < s.i.toNat + x.val) :
    exec (.loadRegs x) s = .next (s.raise .memoryOutOfRange (encode (.loadRegs x))) := by
  have hs : ¬ s.spanFits x.val = true := by rw [State.spanFits_iff]; omega
  simp only [exec, execLoadRegs, hs]; rfl

theorem exec_ldB_inside {x : Reg} {s : State} (h : s.i.toNat + 2 ≤ 0xFFF) :
    exec (.ldB x) s = .next (s.storeBytes (s.effAddr 0) (decimalDigits (s.reg x))).advance := by
  simp only [exec, execLdB, (State.spanFits_iff s _).2 h, if_true]

theorem exec_ldB_outside {x : Reg} {s : State} (h : 0xFFF < s.i.toNat + 2) :
    exec (.ldB x) s = .next (s.raise .memoryOutOfRange (encode (.ldB x))) := by
  have hs : ¬ s.spanFits 2 = true := by rw [State.spanFits_iff]; omega
  simp only [exec, execLdB, hs]; rfl

theorem exec_drw_inside {x y : Reg} {n : Nibble} {s : State} (h : n.toNat = 0 ∨ s.i.toNat + n.toNat - 1 ≤ 0xFFF) :
    exec (.drw x y n) s =
      .next (((s.setFb (s.blit x y n).1).setReg vf (Flags.ofBool (s.blit x y n).2)).setDirty true).advance := by
  simp only [exec, execDrw, (State.spriteFits_iff s _).2 h, if_true]

theorem exec_drw_outside {x y : Reg} {n : Nibble} {s : State} (h1 : 1 ≤ n.toNat) (h2 : 0xFFF < s.i.toNat + n.toNat - 1) :
    exec (.drw x y n) s = .next (s.raise .memoryOutOfRange (encode (.drw x y n))) := by
  have hs : ¬ s.spriteFits n.toNat = true := by rw [State.spriteFits_iff]; omega
  simp only [exec, execDrw, hs]; rfl

/-- The bytes a store leaves (R62, R69). -/
theorem State.readByte_storeBytes {s : State} (w : s.mem.wf = true) {a : Nat} {bs : List Byte}
    (h : a + bs.length ≤ Config.memSize) (a' : Nat) :
    (s.storeBytes a bs).readByte a' = if h : a ≤ a' ∧ a' < a + bs.length then bs[a' - a] else s.readByte a' :=
  Memory.read_writeBytes w h a'

end Sys2Proof.Machine
end

