-- ==== Sys2Proof/Tests/Slice0.lean ====
section
/-! SUPPORT. Tests of the model against the spec's own words, tables and vectors (spec/30_encoding.md R96,
spec/95_test_vectors.md), the checks of WellFormed on ill-formed words and programs, and for every statement with
hypotheses a concrete state that meets them. No expected value here was taken from the model. -/

namespace Sys2Proof.Tests

open Sys2Proof.Machine

/-! ## What is ill-formed is refused -/

/-- One word of each class of R97 matches no row of the opcode map. -/
theorem test_ill_formed_words :
    wordValid 0x0000#16 = false ∧ wordValid 0x5121#16 = false ∧ wordValid 0x8128#16 = false ∧
    wordValid 0x9121#16 = false ∧ wordValid 0xE19F#16 = false ∧ wordValid 0xF134#16 = false := by decide

/-- The neighbours of those words that are instructions match a row (R96). -/
theorem test_well_formed_words :
    wordValid 0x00E0#16 = true ∧ wordValid 0x5120#16 = true ∧ wordValid 0x812E#16 = true ∧
    wordValid 0x9120#16 = true ∧ wordValid 0xE19E#16 = true ∧ wordValid 0xF133#16 = true := by decide

/-- A program of 3585 bytes does not fit, one of 3584 bytes or of none does (R293). -/
theorem test_rom_too_long :
    romFits (List.replicate 3585 0x00#8) = false ∧ romFits (List.replicate 3584 0x00#8) = true ∧ romFits [] = true := by
  simp only [romFits, List.length_replicate]
  decide

/-- Fewer than two bytes are no word (R90). -/
theorem test_truncated : decodeBytes [0x12#8] = (.invalid .truncated, [0x12#8]) := by decide

/-- The decoder hands the rest of the bytes back (R90). -/
theorem test_rest_of_bytes : decodeBytes [0x00#8, 0xE0#8, 0x6A#8] = (.insn .cls, [0x6A#8]) := by decide

/-! ## One word per instruction, bit by bit from the encodings of R92 and R96 -/

theorem test_decode_cls : decode 0b0000000011100000#16 = .insn .cls := by decide
theorem test_decode_ret : decode 0b0000000011101110#16 = .insn .ret := by decide
theorem test_decode_jp : decode 0b0001101010111100#16 = .insn (.jp 0xABC#12) := by decide
theorem test_decode_call : decode 0b0010001100000001#16 = .insn (.call 0x301#12) := by decide
theorem test_decode_seImm : decode 0b0011001101000010#16 = .insn (.seImm 3 0x42#8) := by decide
theorem test_decode_sneImm : decode 0b0100111101000011#16 = .insn (.sneImm 0xF 0x43#8) := by decide
theorem test_decode_seReg : decode 0b0101000100100000#16 = .insn (.seReg 1 2) := by decide
theorem test_decode_ldImm : decode 0b0110101000000101#16 = .insn (.ldImm 0xA 0x05#8) := by decide
theorem test_decode_addImm : decode 0b0111101000000011#16 = .insn (.addImm 0xA 0x03#8) := by decide
theorem test_decode_ldReg : decode 0b1000000100100000#16 = .insn (.ldReg 1 2) := by decide
theorem test_decode_orReg : decode 0b1000000100100001#16 = .insn (.orReg 1 2) := by decide
theorem test_decode_andReg : decode 0b1000000100100010#16 = .insn (.andReg 1 2) := by decide
theorem test_decode_xorReg : decode 0b1000000100100011#16 = .insn (.xorReg 1 2) := by decide
theorem test_decode_addReg : decode 0b1000000111110100#16 = .insn (.addReg 1 0xF) := by decide
theorem test_decode_subReg : decode 0b1000111100010101#16 = .insn (.subReg 0xF 1) := by decide
theorem test_decode_shr : decode 0b1000000100100110#16 = .insn (.shr 1 2) := by decide
theorem test_decode_subnReg : decode 0b1000000100100111#16 = .insn (.subnReg 1 2) := by decide
theorem test_decode_shl : decode 0b1000000100101110#16 = .insn (.shl 1 2) := by decide
theorem test_decode_sneReg : decode 0b1001000100100000#16 = .insn (.sneReg 1 2) := by decide
theorem test_decode_ldI : decode 0b1010001000001100#16 = .insn (.ldI 0x20C#12) := by decide
theorem test_decode_jpV0 : decode 0b1011001100000000#16 = .insn (.jpV0 0x300#12) := by decide
theorem test_decode_rnd : decode 0b1100000100001111#16 = .insn (.rnd 1 0x0F#8) := by decide
theorem test_decode_drw : decode 0b1101000100101010#16 = .insn (.drw 1 2 0xA#4) := by decide
theorem test_decode_skp : decode 0b1110000110011110#16 = .insn (.skp 1) := by decide
theorem test_decode_sknp : decode 0b1110000110100001#16 = .insn (.sknp 1) := by decide
theorem test_decode_ldVxDT : decode 0b1111001000000111#16 = .insn (.ldVxDT 2) := by decide
theorem test_decode_ldVxK : decode 0b1111000100001010#16 = .insn (.ldVxK 1) := by decide
theorem test_decode_ldDTVx : decode 0b1111000100010101#16 = .insn (.ldDTVx 1) := by decide
theorem test_decode_ldSTVx : decode 0b1111001100011000#16 = .insn (.ldSTVx 3) := by decide
theorem test_decode_addI : decode 0b1111001000011110#16 = .insn (.addI 2) := by decide
theorem test_decode_ldF : decode 0b1111000000101001#16 = .insn (.ldF 0) := by decide
theorem test_decode_ldB : decode 0b1111001100110011#16 = .insn (.ldB 3) := by decide
theorem test_decode_storeRegs : decode 0b1111001001010101#16 = .insn (.storeRegs 2) := by decide
theorem test_decode_loadRegs : decode 0b1111001001100101#16 = .insn (.loadRegs 2) := by decide

/-- The opcode table's numbering: a word of 16 bits is the word itself, its high byte first in memory (R61). -/
theorem test_table_word :
    decodeTableWord 16 0xD12A = some (.drw 1 2 0xA#4) ∧ decodeTableWord 16 0x5121 = none := by decide

/-! ## Helpers: small states and what a step leaves -/

/-- Reset with some registers set. -/
def regs (l : List (Reg × Byte)) : State := l.foldl (fun s p => s.setReg p.1 p.2) State.reset

/-- Whether the answer is a next state of which `p` holds. -/
def leaves (r : Result) (p : State → Bool) : Bool :=
  match r with
  | .next t => p t
  | .fault _ => false
  | .refused _ => false

/-- Whether a step of `s` with the word `op` at its `PC` leaves a state of which `p` holds. -/
def stepOf (op : Word) (s : State) (p : State → Bool) : Bool := leaves (step (s.placeWord op)) p

/-- The fault record of a state is this one and the core is stopped. -/
def faulted (c : Cause) (pc op : Word) (t : State) : Bool := t.fault == some ⟨c, pc, op⟩ && t.run == .faulted

/-- A stack of 16 return addresses. -/
def fullStack : State := State.reset.setStack (List.replicate 16 0x0202#16)

/-! ## One step per instruction, on the vectors of spec/95_test_vectors.md part 2 -/

/-- 2.5: `00E0`, cells (0,0) and (63,31) set. -/
theorem test_cls : stepOf 0x00E0#16
    (State.reset.setFb (FrameBuffer.toggle (FrameBuffer.toggle State.reset.fb 0 0) 63 31))
    (fun t => t.fb == State.reset.fb && t.dirty && t.pc == 0x0202#16) = true := by decide

/-- 2.2: `00EE` pops the newest entry. -/
theorem test_ret : stepOf 0x00EE#16 ((State.reset.setStack [0x030A#16, 0x0206#16]).setPc 0x0212#16)
    (fun t => t.pc == 0x030A#16 && t.stack == [0x0206#16]) = true := by decide

/-- 2.2: `00EE` on an empty stack. -/
theorem test_ret_empty : stepOf 0x00EE#16 State.reset
    (fun t => faulted .stackUnderflow 0x0200#16 0x00EE#16 t && t.pc == 0x0200#16) = true := by decide

/-- 2.2: `1ABC`. -/
theorem test_jp : stepOf 0x1ABC#16 State.reset (fun t => t.pc == 0x0ABC#16) = true := by decide

/-- 2.2: `2300` at 0xFFE. -/
theorem test_call : stepOf 0x2300#16 (State.reset.setPc 0x0FFE#16)
    (fun t => t.pc == 0x0300#16 && t.stack == [0x1000#16]) = true := by decide

/-- 2.2: `2300` with 16 entries on the stack. -/
theorem test_call_full : stepOf 0x2300#16 fullStack
    (fun t => faulted .stackOverflow 0x0200#16 0x2300#16 t && t.pc == 0x0200#16 && t.stack == fullStack.stack) = true := by
  decide

/-- P9b of spec/95_test_vectors.md with another STACK_DEPTH: with a depth of 2 the third call faults, the second does not. -/
theorem test_call_other_depth :
    stepOf 0x2200#16 ((State.resetWith 2).setStack [0x0202#16, 0x0202#16])
      (faulted .stackOverflow 0x0200#16 0x2200#16) = true ∧
    stepOf 0x2200#16 ((State.resetWith 2).setStack [0x0202#16])
      (fun t => t.run == .running && t.stack == [0x0202#16, 0x0202#16]) = true := by decide

/-- 2.2: `3342` and `3343` with `V3 = 42`. -/
theorem test_seImm :
    stepOf 0x3342#16 (regs [(3, 0x42#8)]) (fun t => t.pc == 0x0204#16) = true ∧
    stepOf 0x3343#16 (regs [(3, 0x42#8)]) (fun t => t.pc == 0x0202#16) = true := by decide

/-- 2.2: `4342` and `4343` with `V3 = 42`. -/
theorem test_sneImm :
    stepOf 0x4342#16 (regs [(3, 0x42#8)]) (fun t => t.pc == 0x0202#16) = true ∧
    stepOf 0x4343#16 (regs [(3, 0x42#8)]) (fun t => t.pc == 0x0204#16) = true := by decide

/-- 2.2: `5120`, equal and not. -/
theorem test_seReg :
    stepOf 0x5120#16 (regs [(1, 0x07#8), (2, 0x07#8)]) (fun t => t.pc == 0x0204#16) = true ∧
    stepOf 0x5120#16 (regs [(1, 0x07#8), (2, 0x08#8)]) (fun t => t.pc == 0x0202#16) = true := by decide

/-- 2.2: `9120`, equal and not. -/
theorem test_sneReg :
    stepOf 0x9120#16 (regs [(1, 0x07#8), (2, 0x07#8)]) (fun t => t.pc == 0x0202#16) = true ∧
    stepOf 0x9120#16 (regs [(1, 0x07#8), (2, 0x08#8)]) (fun t => t.pc == 0x0204#16) = true := by decide

/-- 2.2: `BFFF` with `V0 = FF` is not reduced to 12 bits. -/
theorem test_jpV0 : stepOf 0xBFFF#16 (regs [(0, 0xFF#8)]) (fun t => t.pc == 0x10FE#16) = true := by decide

/-- 2.3: `6F12`, VF as an ordinary destination. -/
theorem test_ldImm : stepOf 0x6F12#16 State.reset (fun t => t.reg vf == 0x12#8 && t.pc == 0x0202#16) = true := by decide

/-- 2.3: `7101` wraps and leaves VF. -/
theorem test_addImm : stepOf 0x7101#16 (regs [(1, 0xFF#8), (vf, 0xAA#8)])
    (fun t => t.reg 1 == 0x00#8 && t.reg vf == 0xAA#8) = true := by decide

/-- 2.3: `8120`. -/
theorem test_ldReg : stepOf 0x8120#16 (regs [(1, 0xF0#8), (2, 0x3C#8), (vf, 0xAA#8)])
    (fun t => t.reg 1 == 0x3C#8 && t.reg 2 == 0x3C#8 && t.reg vf == 0xAA#8) = true := by decide

/-- 2.3: `8121` leaves VF. -/
theorem test_orReg : stepOf 0x8121#16 (regs [(1, 0xF0#8), (2, 0x3C#8), (vf, 0xAA#8)])
    (fun t => t.reg 1 == 0xFC#8 && t.reg vf == 0xAA#8) = true := by decide

/-- 2.3: `8122` leaves VF. -/
theorem test_andReg : stepOf 0x8122#16 (regs [(1, 0xF0#8), (2, 0x3C#8), (vf, 0xAA#8)])
    (fun t => t.reg 1 == 0x30#8 && t.reg vf == 0xAA#8) = true := by decide

/-- 2.3: `8123` leaves VF. -/
theorem test_xorReg : stepOf 0x8123#16 (regs [(1, 0xF0#8), (2, 0x3C#8), (vf, 0xAA#8)])
    (fun t => t.reg 1 == 0xCC#8 && t.reg vf == 0xAA#8) = true := by decide

/-- 2.3: `81F4` with the old VF as the operand. -/
theorem test_addReg : stepOf 0x81F4#16 (regs [(1, 0x10#8), (vf, 0xF8#8)])
    (fun t => t.reg 1 == 0x08#8 && t.reg vf == 0x01#8) = true := by decide

/-- 2.3: `8F14` into VF: the carry stays, the sum is lost. -/
theorem test_addReg_into_vf :
    stepOf 0x8F14#16 (regs [(vf, 0xFF#8), (1, 0x01#8)]) (fun t => t.reg vf == 0x01#8) = true ∧
    stepOf 0x8F14#16 (regs [(vf, 0x01#8), (1, 0x01#8)]) (fun t => t.reg vf == 0x00#8) = true := by decide

/-- 2.3: `8125`, a borrow. -/
theorem test_subReg : stepOf 0x8125#16 (regs [(1, 0x05#8), (2, 0x06#8), (vf, 0x01#8)])
    (fun t => t.reg 1 == 0xFF#8 && t.reg vf == 0x00#8) = true := by decide

/-- 2.3: `8125`, equal operands. -/
theorem test_subReg_equal : stepOf 0x8125#16 (regs [(1, 0x05#8), (2, 0x05#8)])
    (fun t => t.reg 1 == 0x00#8 && t.reg vf == 0x01#8) = true := by decide

/-- 2.3: `8126` shifts `V1`, not `V2`. -/
theorem test_shr : stepOf 0x8126#16 (regs [(1, 0x05#8), (2, 0xFF#8)])
    (fun t => t.reg 1 == 0x02#8 && t.reg vf == 0x01#8 && t.reg 2 == 0xFF#8) = true := by decide

/-- 2.3: `8F06`, the bit shifted out stays. -/
theorem test_shr_into_vf :
    stepOf 0x8F06#16 (regs [(vf, 0x03#8)]) (fun t => t.reg vf == 0x01#8) = true ∧
    stepOf 0x8F06#16 (regs [(vf, 0x02#8)]) (fun t => t.reg vf == 0x00#8) = true := by decide

/-- 2.3: `8127`, both directions. -/
theorem test_subnReg :
    stepOf 0x8127#16 (regs [(1, 0x05#8), (2, 0x06#8)]) (fun t => t.reg 1 == 0x01#8 && t.reg vf == 0x01#8) = true ∧
    stepOf 0x8127#16 (regs [(1, 0x06#8), (2, 0x05#8)]) (fun t => t.reg 1 == 0xFF#8 && t.reg vf == 0x00#8) = true := by
  decide

/-- 2.3: `812E` shifts `V1`, not `V2`. -/
theorem test_shl : stepOf 0x812E#16 (regs [(1, 0x81#8), (2, 0xFF#8)])
    (fun t => t.reg 1 == 0x02#8 && t.reg vf == 0x01#8 && t.reg 2 == 0xFF#8) = true := by decide

/-- 2.3: `C100` gives 0 for every byte drawn, and uses up one draw. -/
theorem test_rnd : ∃ t, exec (.rnd 1 0x00#8) (regs [(1, 0x09#8)]) = .next t ∧ t.reg 1 = 0x00#8 ∧ t.draws = 1 :=
  ⟨_, rfl, by simp, rfl⟩

/-- 2.4: `AFFF`. -/
theorem test_ldI : stepOf 0xAFFF#16 State.reset (fun t => t.i == 0x0FFF#16) = true := by decide

/-- 2.4: `F11E` past 12 bits and past 16 bits; VF stays. -/
theorem test_addI :
    stepOf 0xF11E#16 ((regs [(1, 0x01#8), (vf, 0x07#8)]).setI 0x0FFF#16)
      (fun t => t.i == 0x1000#16 && t.reg vf == 0x07#8) = true ∧
    stepOf 0xF11E#16 ((regs [(1, 0x02#8)]).setI 0xFFFF#16) (fun t => t.i == 0x0001#16) = true := by decide

/-- 2.4: `F129` multiplies the whole byte. -/
theorem test_ldF :
    stepOf 0xF129#16 (regs [(1, 0x0A#8)]) (fun t => t.i == 0x0032#16) = true ∧
    stepOf 0xF129#16 (regs [(1, 0xFF#8)]) (fun t => t.i == 0x04FB#16) = true := by decide

/-- 2.4: `F133` at the top of the bank. -/
theorem test_ldB : stepOf 0xF133#16 ((regs [(1, 0x7B#8)]).setI 0x0FFD#16)
    (fun t => t.readByte 0xFFD == 0x01#8 && t.readByte 0xFFE == 0x02#8 && t.readByte 0xFFF == 0x03#8) = true := by decide

/-- 2.4: `F133` one byte beyond: no byte is written. -/
theorem test_ldB_outside : stepOf 0xF133#16 ((regs [(1, 0x7B#8)]).setI 0x0FFE#16)
    (fun t => faulted .memoryOutOfRange 0x0200#16 0xF133#16 t && t.readByte 0xFFE == 0x00#8) = true := by decide

/-- 2.4: `F255` stores three registers. -/
theorem test_storeRegs : stepOf 0xF255#16
    ((regs [(0, 0x01#8), (1, 0x02#8), (2, 0x03#8), (3, 0x04#8)]).setI 0x0300#16)
    (fun t => t.readByte 0x300 == 0x01#8 && t.readByte 0x301 == 0x02#8 && t.readByte 0x302 == 0x03#8 &&
      t.readByte 0x303 == 0x00#8 && t.i == 0x0300#16) = true := by decide

/-- 2.4: `F155` at 0xFFF stores nothing. -/
theorem test_storeRegs_outside : stepOf 0xF155#16 ((regs [(0, 0xAB#8), (1, 0xCD#8)]).setI 0x0FFF#16)
    (fun t => faulted .memoryOutOfRange 0x0200#16 0xF155#16 t && t.readByte 0xFFF == 0x00#8) = true := by decide

/-- 2.4: `F165` at its own address loads its own word, high byte first. -/
theorem test_loadRegs : stepOf 0xF165#16 ((regs [(2, 0x99#8)]).setI 0x0200#16)
    (fun t => t.reg 0 == 0xF1#8 && t.reg 1 == 0x65#8 && t.reg 2 == 0x99#8) = true := by decide

/-- 2.4: `F065` at 0x1000. -/
theorem test_loadRegs_outside : stepOf 0xF065#16 (State.reset.setI 0x1000#16)
    (faulted .memoryOutOfRange 0x0200#16 0xF065#16) = true := by decide

/-- 2.5: glyph 0 at (60,30): rows 2 to 4 are clipped at the bottom. -/
theorem test_drw : stepOf 0xD125#16 (regs [(1, 0x3C#8), (2, 0x1E#8)])
    (fun t => FrameBuffer.cell t.fb 60 30 && FrameBuffer.cell t.fb 61 30 && FrameBuffer.cell t.fb 63 30 &&
      FrameBuffer.cell t.fb 60 31 && !FrameBuffer.cell t.fb 61 31 && FrameBuffer.cell t.fb 63 31 &&
      !FrameBuffer.cell t.fb 60 0 && t.reg vf == 0x00#8 && t.dirty) = true := by decide

/-- 2.5: a collision: `M[300] = C0` with cell (1,0) set. -/
theorem test_drw_collision : stepOf 0xD121#16
    (((State.reset.storeBytes 0x300 [0xC0#8]).setI 0x0300#16).setFb (FrameBuffer.toggle State.reset.fb 1 0))
    (fun t => FrameBuffer.cell t.fb 0 0 && !FrameBuffer.cell t.fb 1 0 && t.reg vf == 0x01#8) = true := by decide

/-- 2.6: `E19E`, key 0xF pressed; and an index of 0x10. -/
theorem test_skp :
    stepOf 0xE19E#16 ((regs [(1, 0x0F#8)]).setKey 0xF true) (fun t => t.pc == 0x0204#16) = true ∧
    stepOf 0xE19E#16 (regs [(1, 0x10#8)]) (faulted .keyIndexOutOfRange 0x0200#16 0xE19E#16) = true := by decide

/-- 2.6: `E1A1`, key 3 pressed and not. -/
theorem test_sknp :
    stepOf 0xE1A1#16 ((regs [(1, 0x03#8)]).setKey 3 true) (fun t => t.pc == 0x0202#16) = true ∧
    stepOf 0xE1A1#16 (regs [(1, 0x03#8)]) (fun t => t.pc == 0x0204#16) = true := by decide

/-- 2.6: `F107`. -/
theorem test_ldVxDT : stepOf 0xF107#16 (State.reset.setDT 0x2A#8) (fun t => t.reg 1 == 0x2A#8 && t.dt == 0x2A#8) = true := by
  decide

/-- 2.6: `F10A` starts the wait. -/
theorem test_ldVxK : stepOf 0xF10A#16 State.reset (fun t => t.run == .awaitingKey 1 && t.pc == 0x0200#16) = true := by
  decide

/-- 2.6: `F115`. -/
theorem test_ldDTVx : stepOf 0xF115#16 (regs [(1, 0x2A#8)]) (fun t => t.dt == 0x2A#8 && t.st == 0x00#8) = true := by decide

/-- 2.6: `F118`. -/
theorem test_ldSTVx : stepOf 0xF118#16 (regs [(1, 0x2A#8)]) (fun t => t.st == 0x2A#8 && t.dt == 0x00#8) = true := by decide

/-! ## The cycle and the host operations -/

/-- 2.1: an odd `PC` (R63). -/
theorem test_odd_fetch : stepOf 0x6A01#16 (State.reset.setPc 0x0201#16)
    (fun t => t.reg 0xA == 0x01#8 && t.pc == 0x0203#16) = true := by decide

/-- 2.1: the fetch at 0xFFF faults. -/
theorem test_fetch_outside : leaves (step (State.reset.setPc 0x0FFF#16))
    (fun t => faulted .fetchOutOfRange 0x0FFF#16 0x0000#16 t && t.pc == 0x0FFF#16) = true := by decide

/-- Example of R124: the word 0x5121 is reported and skipped. -/
theorem test_invalid_opcode : stepOf 0x5121#16 (regs [(1, 0x01#8)])
    (fun t => t.reports == [⟨0x0200#16, 0x5121#16⟩] && t.pc == 0x0202#16 && t.run == .running && t.reg 1 == 0x01#8) = true := by
  decide

/-- 2.6: a KeyPress completes the wait (example of R235). -/
theorem test_key_press : leaves (perform (.keyPress 7) (State.reset.setRun (.awaitingKey 1)))
    (fun t => t.reg 1 == 0x07#8 && t.key 7 && t.pc == 0x0202#16 && t.run == .running) = true := by decide

/-- 2.6: a TimerTick, floored at 0. -/
theorem test_timer_tick :
    leaves (perform .timerTick ((State.reset.setDT 0x02#8).setST 0x01#8)) (fun t => t.dt == 0x01#8 && t.st == 0x00#8) = true ∧
    leaves (perform .timerTick State.reset) (fun t => t.dt == 0x00#8 && t.st == 0x00#8) = true := by decide

/-- Reset places the program at 0x200, its first byte the high byte of the first word (R292). -/
theorem test_reset_program : leaves (perform (.reset font [0x6A#8, 0x05#8]) fullStack)
    (fun t => t.fetch == some 0x6A05#16 && t.stack == [] && t.readByte 0x04F == 0x80#8) = true := by decide

/-- The frame buffer's linear view (R34): index `y * 64 + x`. -/
theorem test_linear_view :
    (State.reset.setFb (FrameBuffer.toggle State.reset.fb 3 2)).linearCell 131 = true ∧
    (State.reset.setFb (FrameBuffer.toggle State.reset.fb 3 2)).linearCell 130 = false := by decide

/-- The codes of the causes (R251). -/
theorem test_cause_codes :
    [Cause.fetchOutOfRange, .stackUnderflow, .stackOverflow, .memoryOutOfRange, .keyIndexOutOfRange].map causeCode =
      [1, 2, 3, 4, 5] := by decide

/-- The diagnostics snapshot (R273). -/
theorem test_diagnostics :
    (regs [(7, 0x11#8)]).diagnostics = ⟨(regs [(7, 0x11#8)]).v, 0x0000#16, 0x0200#16, 0x00#8, 0x00#8⟩ := by decide

/-- A placed word is the next one fetched, also where `PC` was beyond the bank or the core had faulted. -/
theorem test_with_fetch_word :
    leaves (step (State.reset.withFetchWord 16 0x6A05)) (fun t => t.reg 0xA == 0x05#8) = true ∧
    leaves (step (((State.reset.setPc 0x1000#16).setRun .faulted).withFetchWord 16 0x6A05))
      (fun t => t.reg 0xA == 0x05#8) = true := by decide

/-! ## A concrete state for the hypotheses of every statement that has some -/

/-- A state whose next word is `7A03`. -/
def atAddImm : State := State.reset.withFetchWord 16 0x7A03

theorem witness_EncodeOfDecode : decode 0xD12A#16 = .insn (.drw 1 2 0xA#4) := by decide

theorem witness_OpcodeRowsDisjoint :
    (⟨0xF065#16, 0xF0FF#16⟩ : OpcodeRow) ∈ opcodeMap ∧
    OpcodeRow.selects ⟨0xF065#16, 0xF0FF#16⟩ 0xF265#16 = true := by decide

/-- At the last address a word can be fetched from. -/
theorem witness_StepRunsDecodedInstruction :
    ∃ s : State, s.run = .running ∧ s.pc.toNat = 0xFFE ∧
      decode (joinBytes (s.readByte s.pc.toNat) (s.readByte (s.pc.toNat + 1))) = .insn (.ldImm 0xA 0x01#8) :=
  ⟨(State.reset.setPc 0x0FFE#16).placeWord 0x6A01#16, by decide⟩

/-- Both clauses, where they meet: 0xFFE and 0xFFF. -/
theorem witness_FetchOrFault :
    ((State.reset.setPc 0x0FFE#16).run = .running ∧ (State.reset.setPc 0x0FFE#16).pc.toNat = 0xFFE) ∧
    ((State.reset.setPc 0x0FFF#16).run = .running ∧ (State.reset.setPc 0x0FFF#16).pc.toNat = 0xFFF) := by decide

/-- A word one bit off the opcode map, at the last address. -/
theorem witness_InvalidOpcodeIsReportedAndSkipped :
    ∃ s : State, s.run = .running ∧ s.pc.toNat = 0xFFE ∧
      0x5121#16 = joinBytes (s.readByte s.pc.toNat) (s.readByte (s.pc.toNat + 1)) ∧ wordValid 0x5121#16 = false :=
  ⟨(State.reset.setPc 0x0FFE#16).placeWord 0x5121#16, by decide⟩

theorem witness_CycleHoldsWhileAwaitingKey : (State.reset.setRun (.awaitingKey 0xF)).run = .awaitingKey 0xF := by decide

theorem witness_CycleHoldsWhenFaulted : (State.reset.raise .stackUnderflow 0x00EE#16).run = .faulted := by decide

theorem witness_PlacedWordIsFetchedAndRun : (State.reset.setPc 0x0FFF#16).mem.wf = true := by decide

/-- Both clauses, where they meet: 15 and 16 entries with the default STACK_DEPTH, and none with a STACK_DEPTH of 1 and 0. -/
theorem witness_CallPushesOrFaults :
    (State.reset.setStack (List.replicate 15 0x0202#16)).stack.length < State.reset.stackDepth ∧
    fullStack.stackDepth ≤ fullStack.stack.length ∧
    ((State.resetWith 1).stack.length < (State.resetWith 1).stackDepth ∧
      (State.resetWith 0).stackDepth ≤ (State.resetWith 0).stack.length) := by decide

/-- Both clauses: one entry, and none. -/
theorem witness_ReturnPopsOrFaults :
    (State.reset.setStack [0x0206#16]).stack = 0x0206#16 :: [] ∧ State.reset.stack = [] := by decide

theorem witness_CallThenReturnRoundTrip :
    (State.reset.setStack (List.replicate 15 0x0202#16)).stack.length < State.reset.stackDepth := by decide

/-- The clause on invalid words at the ends of its range. -/
theorem witness_SkipsOnRegisters : (0 < 1 ∧ 1 < 16) ∧ (0 < 15 ∧ 15 < 16) := by decide

/-- A register other than VF, and VF itself. -/
theorem witness_AddSetsCarry : (0xE : Reg) ≠ vf ∧ (0xF : Reg) = vf := by decide

theorem witness_SubtractSetsNoBorrow : (0 : Reg) ≠ vf := by decide

theorem witness_ShiftsSetTheBitShiftedOut : (0 : Reg) ≠ vf := by decide

/-- Both clauses, where they meet: `I` at 0xFFD and 0xFFE; and a place on each side of the stored bytes. -/
theorem witness_DecimalStore :
    State.reset.mem.wf = true ∧ (State.reset.setI 0x0FFD#16).i.toNat + 2 ≤ 0xFFF ∧
    0xFFF < (State.reset.setI 0x0FFE#16).i.toNat + 2 ∧
    0x2FF < (State.reset.setI 0x0300#16).effAddr 0 ∧ (State.reset.setI 0x0300#16).effAddr 0 + 3 ≤ 0x303 := by decide

/-- Both clauses, where they meet, for sixteen registers; and a place on each side of the stored bytes. -/
theorem witness_RegisterStore :
    State.reset.mem.wf = true ∧ (State.reset.setI 0x0FF0#16).i.toNat + (0xF : Reg).val ≤ 0xFFF ∧
    0xFFF < (State.reset.setI 0x0FF1#16).i.toNat + (0xF : Reg).val ∧ (0xF : Reg) ≤ 0xF ∧
    0x2FF < (State.reset.setI 0x0300#16).effAddr 0 ∧
    (State.reset.setI 0x0300#16).effAddr 0 + ((0xF : Reg).val + 1) ≤ 0x310 := by decide

/-- Both clauses, where they meet, for one register. -/
theorem witness_RegisterLoad :
    (State.reset.setI 0x0FFF#16).i.toNat + (0 : Reg).val ≤ 0xFFF ∧
    0xFFF < (State.reset.setI 0x1000#16).i.toNat + (0 : Reg).val := by decide

/-- An `Fx55` that completes at the top of the bank, and registers on both sides of `x`. -/
theorem witness_StoreThenLoadRestoresRegisters :
    (∃ s t : State, s.mem.wf = true ∧ s.i.toNat + (1 : Reg).val ≤ 0xFFF ∧ exec (.storeRegs 1) s = .next t) ∧
    (1 : Reg) ≤ 1 ∧ (1 : Reg) < 2 :=
  ⟨⟨State.reset.setI 0x0FFE#16, _, by decide, by decide, rfl⟩, by decide, by decide⟩

/-- Program P8 of spec/95_test_vectors.md before its fourth cycle. -/
theorem witness_StoreIsSeenByTheNextFetch :
    ∃ s t : State, s.mem.wf = true ∧ s.i.toNat = s.pc.toNat + 2 ∧ 1 ≤ (1 : Reg).val ∧
      s.i.toNat + (1 : Reg).val ≤ 0xFFF ∧ exec (.storeRegs 1) s = .next t :=
  ⟨((regs [(0, 0x6F#8), (1, 0x42#8)]).setPc 0x0206#16).setI 0x0208#16, _, by decide, by decide, by decide, by decide, rfl⟩

/-- The clauses of a draw at their ends: no row, one row at 0xFFF, two rows at 0xFFF; a set touched cell and clear ones. -/
theorem witness_DrawTogglesOrFaults :
    (0#4).toNat = 0 ∧ (State.reset.setI 0x0FFF#16).i.toNat + (1#4).toNat - 1 ≤ 0xFFF ∧
    (1 ≤ (2#4).toNat ∧ 0xFFF < (State.reset.setI 0x0FFF#16).i.toNat + (2#4).toNat - 1) ∧
    (State.reset.touches 1 2 5#4 0 0 = true ∧
      FrameBuffer.cell (State.reset.setFb (FrameBuffer.toggle State.reset.fb 0 0)).fb 0 0 = true) ∧
    FrameBuffer.cell State.reset.fb 0 0 = false := by decide

/-- A draw of glyph 0 that changes the cell (0,0). -/
theorem witness_DrawIsClippedNotWrapped :
    leaves (exec (.drw 1 2 5#4) State.reset)
      (fun t => FrameBuffer.cell t.fb 0 0 != FrameBuffer.cell State.reset.fb 0 0) = true := by decide

/-- Glyph 0 on a clear screen: a touched cell, and every touched cell clear. -/
theorem witness_DrawTwiceRestoresTheScreen :
    (1 : Reg) ≠ vf ∧ (2 : Reg) ≠ vf ∧ State.reset.i.toNat + (5#4).toNat - 1 ≤ 0xFFF ∧
    State.reset.touches 1 2 5#4 0 0 = true ∧
    ∀ col row, State.reset.touches 1 2 5#4 col row = true → FrameBuffer.cell State.reset.fb col row = false :=
  ⟨by decide, by decide, by decide, by decide, fun col row _ => by simp [FrameBuffer.cell, State.reset]⟩

/-- Both clauses, where they meet: an index of 15 and of 16. -/
theorem witness_SkipsOnKeyOrFaults :
    ((regs [(1, 0x0F#8)]).reg 1).toNat < 16 ∧ 0x0F < ((regs [(1, 0x10#8)]).reg 1).toNat := by decide

/-- Both clauses: waiting, and not waiting. -/
theorem witness_KeyPressCompletesTheWait :
    (State.reset.setRun (.awaitingKey 0xF)).run = .awaitingKey 0xF ∧ (∀ x : Reg, State.reset.run ≠ .awaitingKey x) ∧
    (6 : Key) ≠ 7 := by decide

/-- Every clause: running, waiting, faulted, and a cycle that answers. -/
theorem witness_TimerTickCountsDown :
    State.reset.run = .running ∧ (State.reset.setRun (.awaitingKey 1)).run ≠ .running ∧
    (State.reset.raise .stackUnderflow 0x00EE#16).run ≠ .running ∧
    leaves (perform .cycle ((regs [(1, 0x2A#8)]).placeWord 0xF115#16)) (fun t => t.dt == 0x2A#8) = true := by decide

/-- Both clauses, where they meet: programs of 3584 and 3585 bytes; and the ends of the ranges of memory. -/
theorem witness_ResetBuildsTheWholeState :
    (List.replicate 3584 0x00#8).length ≤ 3584 ∧ 3584 < (List.replicate 3585 0x00#8).length ∧
    79 < 80 ∧ (0x050 ≤ 0x1FF ∧ 0x1FF < 0x200) ∧ (0 < [0x6A#8].length) ∧
    (0x200 + [0x6A#8].length ≤ 0x201 ∧ 0x201 ≤ 0xFFF) := by
  simp only [List.length_replicate, List.length_cons, List.length_nil]; omega

/-- Both outcomes: an instruction that completes, and one that faults. -/
theorem witness_InstructionWritesOnlyItsOwn :
    (∃ t, exec (.loadRegs 2) State.reset = .next t) ∧ (∃ t, exec .ret State.reset = .next t ∧ t.run = .faulted) ∧
    writesReg (.loadRegs 2) 3 = false :=
  ⟨⟨_, rfl⟩, ⟨_, rfl, rfl⟩, rfl⟩

theorem witness_OnlyEightInstructionsFault : causeOf (.addReg 1 2) = none ∧ causeOf (.ldVxK 1) = none := by decide

/-- Both kinds of fault: the fetch at 0xFFF, and a `00EE` on an empty stack. -/
theorem witness_FaultsArePrecise :
    (∃ t, step (State.reset.setPc 0x0FFF#16) = .next t ∧ t.run = .faulted) ∧
    (∃ t, step (State.reset.placeWord 0x00EE#16) = .next t ∧ t.run = .faulted) :=
  ⟨⟨_, rfl, rfl⟩, ⟨_, rfl, rfl⟩⟩

/-- A step and a Reset of a machine whose STACK_DEPTH is not the default. -/
theorem witness_StackDepthNeverChanges :
    (∃ t, step (State.resetWith 12) = .next t) ∧
    ∃ t, perform (.reset font [0x6A#8]) (State.resetWith 12) = .next t ∧ t.stackDepth = 12 :=
  ⟨⟨_, rfl⟩, ⟨_, rfl, rfl⟩⟩

theorem witness_FaultedUntilReset :
    (State.reset.raise .stackUnderflow 0x00EE#16).run = .faulted ∧
    ∀ op ∈ [HostOp.cycle, .timerTick, .keyPress 1, .keyRelease 1, .clearDirty], ∀ glyphs rom, op ≠ .reset glyphs rom := by
  refine ⟨rfl, fun op h glyphs rom e => ?_⟩
  subst e
  simp at h

theorem witness_WaitHoldsTheMachine :
    (State.reset.setRun (.awaitingKey 1)).run = .awaitingKey 1 ∧
    ∀ op ∈ [HostOp.cycle, .timerTick, .keyRelease 1, .clearDirty],
      (∀ glyphs rom, op ≠ .reset glyphs rom) ∧ ∀ k, op ≠ .keyPress k := by
  refine ⟨rfl, fun op h => ⟨fun glyphs rom e => ?_, fun k e => ?_⟩⟩ <;> subst e <;> simp at h

/-- Both operations that clear `DIRTY`. -/
theorem witness_DirtyIsClearedOnlyByTheHost :
    (∃ t, perform .clearDirty (State.reset.setDirty true) = .next t ∧ t.dirty = false) ∧
    (∃ t, perform (.reset font []) (State.reset.setDirty true) = .next t ∧ t.dirty = false) ∧
    (State.reset.setDirty true).dirty = true :=
  ⟨⟨_, rfl, rfl⟩, ⟨_, rfl, rfl⟩, rfl⟩

/-- `1200` at 0x200. -/
theorem witness_SelfJumpIsAFixedPoint :
    ∃ s : State, s.run = .running ∧ s.pc.toNat ≤ 0xFFE ∧
      joinBytes (s.readByte s.pc.toNat) (s.readByte (s.pc.toNat + 1)) = BitVec.ofNat 16 (0x1000 + s.pc.toNat) :=
  ⟨State.reset.placeWord 0x1200#16, by decide⟩

theorem witness_StepIgnoresWhatNoInstructionReads : ∃ t, step atAddImm = .next t ∧ t.reg 0xA = 0x03#8 :=
  ⟨_, rfl, by decide⟩

/-- A step and a host operation from a state that lists bytes. -/
theorem witness_MemoryStaysCanonical :
    atAddImm.mem.wf = true ∧ atAddImm.mem ≠ [] ∧ (∃ t, step atAddImm = .next t) ∧
    ∃ t, perform (.reset font [0x6A#8]) atAddImm = .next t :=
  ⟨by decide, by decide, ⟨_, rfl⟩, ⟨_, rfl⟩⟩

/-- A running state and a faulted one. -/
theorem witness_FaultRecordMatchesRunState :
    FaultMatchesRun atAddImm ∧ FaultMatchesRun (State.reset.raise .stackUnderflow 0x00EE#16) ∧
    (∃ t, step atAddImm = .next t) ∧ ∃ t, perform (.keyPress 1) atAddImm = .next t :=
  ⟨by simp [FaultMatchesRun, atAddImm, State.withFetchWord, State.placeWord], by simp [FaultMatchesRun, State.raise],
    ⟨_, rfl⟩, ⟨_, rfl⟩⟩

/-- A full stack, whose next instruction is a call. -/
theorem witness_StackStaysBounded :
    StackBounded (fullStack.placeWord 0x2200#16) ∧ (∃ t, step (fullStack.placeWord 0x2200#16) = .next t) ∧
    ∃ t, perform .timerTick fullStack = .next t :=
  ⟨by unfold StackBounded; decide, ⟨_, rfl⟩, ⟨_, rfl⟩⟩

/-- The largest `PC` and the largest return address, and a wait at 0xFFE that a key press ends. -/
theorem witness_PcStaysInRange :
    PcBounded ((State.reset.setPc 0x10FE#16).setStack [0x1000#16]) ∧
    PcBounded ((State.reset.setPc 0x0FFE#16).setRun (.awaitingKey 1)) ∧
    (∃ t, step ((State.reset.setPc 0x10FE#16).setStack [0x1000#16]) = .next t) ∧
    ∃ t, perform (.keyPress 1) ((State.reset.setPc 0x0FFE#16).setRun (.awaitingKey 1)) = .next t :=
  ⟨⟨by decide, by simp [State.setStack], by simp [State.reset, State.setPc, State.setStack]⟩,
    ⟨by decide, by simp [State.reset, State.setPc, State.setRun], fun _ _ => by decide⟩,
    ⟨_, rfl⟩, ⟨_, rfl⟩⟩

end Sys2Proof.Tests
end

section
/-! PROOFS. Everything one step or one host operation can do to the state the invariants speak of (`Transition`), the
invariants kept by each case of it, and the statements of the family 00_scope: STACK_DEPTH (R6), the call (R143), the
reset state and every run of the host from it (R268). -/

namespace Sys2Proof.Machine

/-! ## What one operation can do -/

/-- The state the invariants speak of is unchanged, but for `PC`. -/
structure ControlKept (s t : State) : Prop where
  mem : t.mem = s.mem
  stack : t.stack = s.stack
  run : t.run = s.run
  fault : t.fault = s.fault
  stackDepth : t.stackDepth = s.stackDepth

/-- The core runs and `PC` is an address a word was fetched from (R121). -/
structure Fetched (s : State) : Prop where
  running : s.run = .running
  inside : s.pc.toNat ≤ 0xFFE

/-- Everything a step or a host operation can do to the memory, the stack, `PC`, `RUN`, `FAULT` and STACK_DEPTH
(R120, R262 to R268). -/
inductive Transition (s : State) : State → Prop
  /-- Nothing of it changes. -/
  | quiet {t : State} (kept : ControlKept s t) (pc : t.pc = s.pc) : Transition s t
  /-- An instruction or an invalid word moves `PC` only: past itself, past the next one, or to a target (R27, R123). -/
  | moved {t : State} (fetched : Fetched s) (kept : ControlKept s t)
      (pc : t.pc = s.pc + 2#16 ∨ t.pc = s.pc + 4#16 ∨ t.pc.toNat ≤ 0x10FE) : Transition s t
  /-- `Fx33` and `Fx55` store bytes inside the bank (R194, R195). -/
  | stored {a : Nat} {bs : List Byte} (fetched : Fetched s) (fits : a + bs.length ≤ Config.memSize) :
      Transition s (s.storeBytes a bs).advance
  /-- `2nnn` with room on the stack (R143). -/
  | called {nnn : Imm12} (fetched : Fetched s) (room : s.stack.length < s.stackDepth) :
      Transition s ((s.setStack ((s.pc + 2#16) :: s.stack)).setPc (immAddr nnn))
  /-- `00EE` with a return address on the stack (R141). -/
  | returned {w : Word} {rest : List Word} (fetched : Fetched s) (top : s.stack = w :: rest) :
      Transition s ((s.setStack rest).setPc w)
  /-- `Fx0A` starts the key wait (R234). -/
  | waits {x : Reg} (fetched : Fetched s) : Transition s (s.setRun (.awaitingKey x))
  /-- A KeyPress ends the key wait (R235). -/
  | resumes {x : Reg} {k : Key} {b : Byte} (waiting : s.run = .awaitingKey x) :
      Transition s ((((s.setKey k true).setReg x b).advance).setRun .running)
  /-- A fault is taken (R256). -/
  | faults {c : Cause} {op : Word} : Transition s (s.raise c op)
  /-- Reset with a ROM that fits (R290). -/
  | resets {glyphs : Vector Byte 80} {rom : List Byte} (fits : romFits rom = true) :
      Transition s (s.afterReset glyphs rom)

/-- An instruction that ends with `PC <- PC + 2` and else writes nothing the invariants speak of. -/
theorem Transition.advanced {s u : State} (f : Fetched s) (kept : ControlKept s u) (pc : u.pc = s.pc) :
    Transition s u.advance :=
  .moved f ⟨kept.mem, kept.stack, kept.run, kept.fault, kept.stackDepth⟩ (.inl (by rw [State.advance_pc, pc]))

/-- A skip instruction. -/
theorem Transition.skipped {s : State} (f : Fetched s) (c : Bool) : Transition s (s.skipIf c) := by
  refine .moved f ⟨by simp, by simp, by simp, by simp, by simp⟩ ?_
  cases c with
  | false => exact .inl rfl
  | true => exact .inr (.inl rfl)

/-! ## The instructions that pop, push or test a key -/

theorem exec_ret_of_cons {s : State} {w : Word} {rest : List Word} (h : s.stack = w :: rest) :
    exec .ret s = .next ((s.setStack rest).setPc w) := by
  simp only [exec, execRet, State.pop_of_cons h]

theorem exec_ret_of_nil {s : State} (h : s.stack = []) :
    exec .ret s = .next (s.raise .stackUnderflow (encode .ret)) := by
  simp only [exec, execRet, State.pop_of_nil h, faultOn_eq]

theorem exec_call_of_room (nnn : Imm12) {s : State} (h : s.stack.length < s.stackDepth) :
    exec (.call nnn) s = .next ((s.setStack ((s.pc + 2#16) :: s.stack)).setPc (immAddr nnn)) := by
  simp only [exec, execCall, State.push_of_room h]

theorem exec_call_of_full (nnn : Imm12) {s : State} (h : ¬ s.stack.length < s.stackDepth) :
    exec (.call nnn) s = .next (s.raise .stackOverflow (encode (.call nnn))) := by
  simp only [exec, execCall, State.push_of_full h, faultOn_eq]

theorem exec_skp_of_lt {x : Reg} {s : State} (h : (s.reg x).toNat < 16) :
    exec (.skp x) s = .next (s.skipIf (s.key ⟨(s.reg x).toNat, h⟩)) := by
  simp only [exec, execSkp, keyIndex_of_lt h]

theorem exec_skp_of_ge {x : Reg} {s : State} (h : 16 ≤ (s.reg x).toNat) :
    exec (.skp x) s = .next (s.raise .keyIndexOutOfRange (encode (.skp x))) := by
  simp only [exec, execSkp, keyIndex_of_ge h, faultOn_eq]

theorem exec_sknp_of_lt {x : Reg} {s : State} (h : (s.reg x).toNat < 16) :
    exec (.sknp x) s = .next (s.skipIf (!s.key ⟨(s.reg x).toNat, h⟩)) := by
  simp only [exec, execSknp, keyIndex_of_lt h]

theorem exec_sknp_of_ge {x : Reg} {s : State} (h : 16 ≤ (s.reg x).toNat) :
    exec (.sknp x) s = .next (s.raise .keyIndexOutOfRange (encode (.sknp x))) := by
  simp only [exec, execSknp, keyIndex_of_ge h, faultOn_eq]

/-! ## Every operation is a transition -/

/-- The target of `1nnn` and of `2nnn` is in the range of R27. -/
theorem immAddr_toNat_le (nnn : Imm12) : (immAddr nnn).toNat ≤ 0x10FE := by
  have := nnn.isLt
  rw [immAddr_toNat]; omega

/-- The target of `Bnnn` is in the range of R27 (R148). -/
theorem offsetTarget_toNat_le (b : Byte) (nnn : Imm12) : (regWord b + immAddr nnn).toNat ≤ 0x10FE := by
  have := b.isLt
  have := nnn.isLt
  rw [BitVec.toNat_add, regWord_toNat, immAddr_toNat]; omega

/-- An instruction that was fetched completes, and what it does is a transition (R120, R252). -/
theorem exec_transition {s : State} (f : Fetched s) (i : Instr) : ∃ t, exec i s = .next t ∧ Transition s t := by
  cases i with
  | cls | ldImm _ _ | addImm _ _ | ldReg _ _ | orReg _ _ | andReg _ _ | xorReg _ _ | addReg _ _ | subReg _ _
  | shr _ _ | subnReg _ _ | shl _ _ | rnd _ _ | ldI _ | addI _ | ldF _ | ldVxDT _ | ldDTVx _ | ldSTVx _ =>
    exact ⟨_, rfl, .advanced f ⟨rfl, rfl, rfl, rfl, rfl⟩ rfl⟩
  | seImm _ _ | sneImm _ _ | seReg _ _ | sneReg _ _ => exact ⟨_, rfl, .skipped f _⟩
  | jp nnn => exact ⟨_, rfl, .moved f ⟨rfl, rfl, rfl, rfl, rfl⟩ (.inr (.inr (immAddr_toNat_le nnn)))⟩
  | jpV0 nnn => exact ⟨_, rfl, .moved f ⟨rfl, rfl, rfl, rfl, rfl⟩ (.inr (.inr (offsetTarget_toNat_le _ nnn)))⟩
  | ldVxK x => exact ⟨_, rfl, .waits f⟩
  | ret =>
    cases h : s.stack with
    | nil => exact ⟨_, exec_ret_of_nil h, .faults⟩
    | cons w rest => exact ⟨_, exec_ret_of_cons h, .returned f h⟩
  | call nnn =>
    by_cases h : s.stack.length < s.stackDepth
    · exact ⟨_, exec_call_of_room nnn h, .called f h⟩
    · exact ⟨_, exec_call_of_full nnn h, .faults⟩
  | skp x =>
    rcases Nat.lt_or_ge (s.reg x).toNat 16 with h | h
    · exact ⟨_, exec_skp_of_lt h, .skipped f _⟩
    · exact ⟨_, exec_skp_of_ge h, .faults⟩
  | sknp x =>
    rcases Nat.lt_or_ge (s.reg x).toNat 16 with h | h
    · exact ⟨_, exec_sknp_of_lt h, .skipped f _⟩
    · exact ⟨_, exec_sknp_of_ge h, .faults⟩
  | drw x y n =>
    by_cases h : n.toNat = 0 ∨ s.i.toNat + n.toNat - 1 ≤ 0xFFF
    · exact ⟨_, exec_drw_inside h, .advanced f ⟨rfl, rfl, rfl, rfl, rfl⟩ rfl⟩
    · exact ⟨_, exec_drw_outside (by omega) (by omega), .faults⟩
  | ldB x =>
    rcases Nat.lt_or_ge 0xFFF (s.i.toNat + 2) with h | h
    · exact ⟨_, exec_ldB_outside h, .faults⟩
    · refine ⟨_, exec_ldB_inside h, .stored f ?_⟩
      rw [decimalDigits_length, State.effAddr, Config.memSize]; omega
  | storeRegs x =>
    rcases Nat.lt_or_ge 0xFFF (s.i.toNat + x.val) with h | h
    · exact ⟨_, exec_storeRegs_outside h, .faults⟩
    · refine ⟨_, exec_storeRegs_inside h, .stored f ?_⟩
      rw [State.regBytes_length, State.effAddr, Config.memSize]; omega
  | loadRegs x =>
    rcases Nat.lt_or_ge 0xFFF (s.i.toNat + x.val) with h | h
    · exact ⟨_, exec_loadRegs_outside h, .faults⟩
    · exact ⟨_, exec_loadRegs_inside h, .advanced f ⟨rfl, rfl, rfl, rfl, rfl⟩ rfl⟩

theorem Transition.refl (s : State) : Transition s s := .quiet ⟨rfl, rfl, rfl, rfl, rfl⟩ rfl

/-- A step is a transition (R120). -/
theorem step_transition {s t : State} (h : step s = .next t) : Transition s t := by
  rcases step_cases h with ⟨-, rfl⟩ | ⟨-, -, rfl⟩ | ⟨hr, hp, op, why, -, -, rfl⟩ | ⟨hr, hp, op, i, -, -, hx⟩
  · exact .refl t
  · exact .faults
  · exact .advanced ⟨hr, hp⟩ ⟨rfl, rfl, rfl, rfl, rfl⟩ rfl
  · obtain ⟨u, hu, tr⟩ := exec_transition ⟨hr, hp⟩ i
    cases hu.symm.trans hx
    exact tr

/-- TimerTick is a transition (R264). -/
theorem hostTimerTick_transition {s t : State} (h : hostTimerTick s = .next t) : Transition s t := by
  unfold hostTimerTick at h
  split at h <;> cases h
  · exact .quiet ⟨rfl, rfl, rfl, rfl, rfl⟩ rfl
  · exact .refl s
  · exact .refl s

/-- KeyPress is a transition (R265). -/
theorem hostKeyPress_transition {k : Key} {s t : State} (h : hostKeyPress k s = .next t) : Transition s t := by
  unfold hostKeyPress at h
  split at h <;> cases h
  · next hw => exact .resumes hw
  · exact .quiet ⟨rfl, rfl, rfl, rfl, rfl⟩ rfl
  · exact .quiet ⟨rfl, rfl, rfl, rfl, rfl⟩ rfl

/-- Reset, when it is performed, is a transition (R290, R293). -/
theorem hostReset_transition {glyphs : Vector Byte 80} {rom : List Byte} {s t : State}
    (h : hostReset glyphs rom s = .next t) : Transition s t := by
  unfold hostReset at h
  split at h <;> cases h
  next fits => exact .resets fits

/-- Every host operation is a transition (R268). -/
theorem perform_transition {op : HostOp} {s t : State} (h : perform op s = .next t) : Transition s t := by
  cases op with
  | reset glyphs rom => exact hostReset_transition h
  | cycle => exact step_transition h
  | timerTick => exact hostTimerTick_transition h
  | keyPress k => exact hostKeyPress_transition h
  | keyRelease k => cases h; exact .quiet ⟨rfl, rfl, rfl, rfl, rfl⟩ rfl
  | clearDirty => cases h; exact .quiet ⟨rfl, rfl, rfl, rfl, rfl⟩ rfl

/-! ## What every transition keeps -/

/-- No transition changes STACK_DEPTH (R6). -/
theorem Transition.stackDepth_eq {s t : State} (h : Transition s t) : t.stackDepth = s.stackDepth := by
  cases h with
  | quiet kept _ | moved _ kept _ => exact kept.stackDepth
  | stored _ _ | called _ _ | returned _ _ | waits _ | resumes _ | faults | resets _ => rfl

/-- The memory after a Reset with a ROM that fits is canonical: font and ROM lie inside the bank (R290). -/
theorem State.afterReset_mem_wf (s : State) (glyphs : Vector Byte 80) {rom : List Byte} (fits : romFits rom = true) :
    (s.afterReset glyphs rom).mem.wf = true := by
  have hrom : rom.length ≤ 3584 := of_decide_eq_true fits
  have hfont : (Memory.writeBytes State.reset.mem 0x000 glyphs.toList).wf = true :=
    Memory.wf_writeBytes rfl (by simp [Config.memSize])
  refine Memory.wf_writeBytes hfont ?_
  simp only [Config.progBase, Config.memSize, BitVec.toNat_ofNat]; omega

/-- Every transition keeps the memory's canonical form. -/
theorem Transition.mem_wf {s t : State} (h : Transition s t) (w : s.mem.wf = true) : t.mem.wf = true := by
  cases h with
  | quiet kept _ | moved _ kept _ => rwa [kept.mem]
  | stored _ fits => exact Memory.wf_writeBytes w fits
  | called _ _ | returned _ _ | waits _ | resumes _ | faults => exact w
  | resets fits => exact s.afterReset_mem_wf _ fits

/-- Every transition keeps `FAULT` matching `RUN` (R38): a core that runs or waits holds no fault record. -/
theorem Transition.faultMatchesRun {s t : State} (h : Transition s t) (m : FaultMatchesRun s) : FaultMatchesRun t := by
  unfold FaultMatchesRun at m ⊢
  cases h with
  | quiet kept _ | moved _ kept _ => rwa [kept.fault, kept.run]
  | stored _ _ | called _ _ | returned _ _ => exact m
  | waits fetched => simpa [fetched.running] using m
  | resumes waiting => simpa [waiting] using m
  | faults => exact iff_of_true rfl rfl
  | resets _ => exact iff_of_false Bool.false_ne_true RunState.noConfusion

/-- Every transition keeps the stack within STACK_DEPTH (R30). -/
theorem Transition.stackBounded {s t : State} (h : Transition s t) (b : StackBounded s) : StackBounded t := by
  unfold StackBounded at b ⊢
  cases h with
  | quiet kept _ | moved _ kept _ => rwa [kept.stack, kept.stackDepth]
  | stored _ _ | waits _ | resumes _ | faults => exact b
  | called _ room => exact room
  | returned _ top =>
    rw [top, List.length_cons] at b
    exact Nat.le_of_succ_le b
  | resets _ => exact Nat.zero_le _

/-- After a word that was fetched comes an address of at most 0x1000 (R27). -/
theorem next_toNat_le {w : Word} (h : w.toNat ≤ 0xFFE) : (w + 2#16).toNat ≤ 0x1000 := by
  rw [BitVec.toNat_add, BitVec.toNat_ofNat]; omega

/-- A skip from a word that was fetched ends in the range of R27. -/
theorem skip_toNat_le {w : Word} (h : w.toNat ≤ 0xFFE) : (w + 4#16).toNat ≤ 0x10FE := by
  rw [BitVec.toNat_add, BitVec.toNat_ofNat]; omega

/-- `PC` starts in the range of R27 (R41). -/
theorem progBase_toNat_le : Config.progBase.toNat ≤ 0x10FE := by decide

/-- Every transition keeps `PC`, the return addresses and the address of a key wait in the range of R27: what is
fetched from lies at most at 0xFFE, so a return address is at most 0x1000 and a skip ends at most at 0x1002. -/
theorem Transition.pcBounded {s t : State} (h : Transition s t) (b : PcBounded s) : PcBounded t := by
  obtain ⟨hpc, hstack, hwait⟩ := b
  cases h with
  | quiet kept pc =>
    refine ⟨by rwa [pc], by rwa [kept.stack], fun x hx => ?_⟩
    rw [pc]; exact hwait x (kept.run ▸ hx)
  | moved fetched kept pc =>
    refine ⟨?_, by rwa [kept.stack], by simp [kept.run, fetched.running]⟩
    rcases pc with pc | pc | pc
    · exact pc ▸ Nat.le_trans (next_toNat_le fetched.inside) (by decide)
    · exact pc ▸ skip_toNat_le fetched.inside
    · exact pc
  | stored fetched _ =>
    exact ⟨Nat.le_trans (next_toNat_le fetched.inside) (by decide), hstack, by simp [fetched.running]⟩
  | called fetched _ =>
    exact ⟨immAddr_toNat_le _, List.forall_mem_cons.2 ⟨next_toNat_le fetched.inside, hstack⟩,
      by simp [fetched.running]⟩
  | returned fetched top =>
    rw [top, List.forall_mem_cons] at hstack
    exact ⟨Nat.le_trans hstack.1 (by decide), hstack.2, by simp [fetched.running]⟩
  | waits fetched => exact ⟨hpc, hstack, fun _ _ => fetched.inside⟩
  | resumes waiting =>
    exact ⟨Nat.le_trans (next_toNat_le (hwait _ waiting)) (by decide), hstack, by simp⟩
  | faults => exact ⟨hpc, hstack, by simp⟩
  | resets _ => exact ⟨progBase_toNat_le, List.forall_mem_nil _, fun _ hx => RunState.noConfusion hx⟩

/-! ## The four invariants together -/

/-- The four invariants: canonical memory (notes/assumptions/9.md), R38, R30, and the range of R27. -/
structure Invariants (s : State) : Prop where
  memWf : s.mem.wf = true
  faultMatchesRun : FaultMatchesRun s
  stackBounded : StackBounded s
  pcBounded : PcBounded s

theorem Transition.invariants {s t : State} (h : Transition s t) (inv : Invariants s) : Invariants t :=
  ⟨h.mem_wf inv.memWf, h.faultMatchesRun inv.faultMatchesRun, h.stackBounded inv.stackBounded,
    h.pcBounded inv.pcBounded⟩

/-- The reset state meets them, whatever STACK_DEPTH is (R41). -/
theorem State.resetWith_invariants (depth : Nat) : Invariants (State.resetWith depth) where
  memWf := rfl
  faultMatchesRun := iff_of_false Bool.false_ne_true RunState.noConfusion
  stackBounded := Nat.zero_le depth
  pcBounded := ⟨progBase_toNat_le, List.forall_mem_nil _, fun _ h => RunState.noConfusion h⟩

/-! ## Runs of the host -/

/-- One operation of a run keeps what every performed one keeps: a refused one leaves the state as it was (R293). -/
theorem performed_keeps {P : State → Prop} (keeps : ∀ op s t, perform op s = .next t → P s → P t) (op : HostOp)
    {s : State} (h : P s) : P (performed op s) := by
  unfold performed
  split
  · next t ht => exact keeps op s t ht h
  · exact h
  · exact h

/-- What every performed operation keeps, every run of the host keeps (R268). -/
theorem hostRun_keeps {P : State → Prop} (keeps : ∀ op s t, perform op s = .next t → P s → P t) (ops : List HostOp)
    {s : State} (h : P s) : P (hostRun ops s) := by
  induction ops generalizing s with
  | nil => exact h
  | cons op ops ih => exact ih (performed_keeps keeps op h)

/-- Every run of the host keeps the four invariants. -/
theorem hostRun_invariants (ops : List HostOp) {s : State} (h : Invariants s) : Invariants (hostRun ops s) :=
  hostRun_keeps (fun _ _ _ hp inv => (perform_transition hp).invariants inv) ops h

/-! ## The call -/

theorem Frame.of_setPc (s : State) (w : Word) : Frame [.pc] s (s.setPc w) := by
  intro f hf
  cases f <;> simp_all [Piece.Same]

theorem Frame.of_setStack (s : State) (l : List Word) : Frame [.stack] s (s.setStack l) := by
  intro f hf
  cases f <;> simp_all [Piece.Same]

/-- A call or a return writes `PC` and the stack, nothing else (R140). -/
theorem Frame.of_setStack_setPc (s : State) (l : List Word) (w : Word) :
    Frame [.pc, .stack] s ((s.setStack l).setPc w) :=
  ((Frame.of_setStack s l).weaken (by simp)).trans ((Frame.of_setPc _ w).weaken (by simp))

/-! ## The statements -/

/-- Settles O58: the reset state meets the invariants, and every operation of the host keeps them. -/
theorem invariantsHoldInEveryHostRun : Obligations.InvariantsHoldInEveryHostRun := by
  intro depth ops
  obtain ⟨mem, fault, stack, pc⟩ := hostRun_invariants ops (State.resetWith_invariants depth)
  exact ⟨mem, fault, stack, pc⟩

/-- Settles O59: no transition writes STACK_DEPTH. -/
theorem stackDepthNeverChanges : Obligations.StackDepthNeverChanges :=
  ⟨fun _ _ h => (step_transition h).stackDepth_eq, fun _ _ _ h => (perform_transition h).stackDepth_eq⟩

/-- Settles O15, by the two sides of the test of `push`. -/
theorem callPushesOrFaults : Obligations.CallPushesOrFaults := by
  intro nnn s
  refine ⟨formatA_toNat 0x2#4 nnn, fun room => ?_, fun full => ?_⟩
  · exact ⟨_, s.pc + 2#16, exec_call_of_room nnn room, rfl, BitVec.toNat_add _ _, immAddr_toNat nnn,
      Frame.of_setStack_setPc s _ _⟩
  · exact ⟨_, exec_call_of_full nnn (by omega), Faults.of_raise s _ _⟩

/-- Settles O57, from the four fields of `State.resetWith_invariants`. -/
theorem resetMeetsTheInvariants : Obligations.ResetMeetsTheInvariants := by
  intro depth
  obtain ⟨mem, fault, stack, pc⟩ := State.resetWith_invariants depth
  exact ⟨mem, fault, stack, pc⟩

end Sys2Proof.Machine
end

section
/-! PROOFS. What each instruction and each host operation leaves of the state, piece by piece (spec/10_state.md R20, R23);
that no step reads the sound timer, `DIRTY`, `FAULT` or the reports; the memory after a Reset; and the statements of the
family 10_state. -/

namespace Sys2Proof.Machine

/-! ## The frame of each operation over the state -/

/-- Two updates in a row write what either of them writes. -/
theorem Frame.append {l l' : List Piece} {s t u : State} (h : Frame l s t) (h' : Frame l' t u) :
    Frame (l ++ l') s u :=
  (h.weaken fun _ => List.mem_append_left l').trans (h'.weaken fun _ => List.mem_append_right l)

/-- The plain advance adds `PC` to what was written (R123). -/
theorem Frame.advance {l : List Piece} {s t : State} (h : Frame l s t) : Frame (.pc :: l) s t.advance :=
  (h.weaken fun _ => List.mem_cons_of_mem Piece.pc).trans ((Frame.of_setPc t _).weaken (by simp))

theorem Frame.of_setReg (s : State) (r : Reg) (b : Byte) : Frame [.v] s (s.setReg r b) := by
  intro f hf
  cases f <;> simp_all [Piece.Same]

theorem Frame.of_setI (s : State) (w : Word) : Frame [.i] s (s.setI w) := by
  intro f hf
  cases f <;> simp_all [Piece.Same]

theorem Frame.of_setDT (s : State) (b : Byte) : Frame [.dt] s (s.setDT b) := by
  intro f hf
  cases f <;> simp_all [Piece.Same]

theorem Frame.of_setST (s : State) (b : Byte) : Frame [.st] s (s.setST b) := by
  intro f hf
  cases f <;> simp_all [Piece.Same]

theorem Frame.of_storeBytes (s : State) (a : Nat) (bs : List Byte) : Frame [.mem] s (s.storeBytes a bs) := by
  intro f hf
  cases f <;> simp_all [Piece.Same]

theorem Frame.of_setFb (s : State) (fb : FrameBuffer) : Frame [.fb] s (s.setFb fb) := by
  intro f hf
  cases f <;> simp_all [Piece.Same]

theorem Frame.of_setDirty (s : State) (b : Bool) : Frame [.dirty] s (s.setDirty b) := by
  intro f hf
  cases f <;> simp_all [Piece.Same]

theorem Frame.of_setKey (s : State) (k : Key) (b : Bool) : Frame [.keys] s (s.setKey k b) := by
  intro f hf
  cases f <;> simp_all [Piece.Same]

theorem Frame.of_setRun (s : State) (r : RunState) : Frame [.run] s (s.setRun r) := by
  intro f hf
  cases f <;> simp_all [Piece.Same]

theorem Frame.of_countDraw (s : State) : Frame [.draws] s s.countDraw := by
  intro f hf
  cases f <;> simp_all [Piece.Same]

theorem Frame.of_skipIf (s : State) (c : Bool) : Frame [.pc] s (s.skipIf c) := by
  cases c <;> exact Frame.of_setPc s _

/-- `Fx65` puts a whole register file in place (R196). -/
theorem Frame.of_registers (s : State) (v : Vector Byte 16) : Frame [.v] s { s with v := v } := by
  intro f hf
  cases f <;> simp_all [Piece.Same, State.readByte, State.key]

/-- The result and the flag are both registers (R160). -/
theorem Frame.of_setResultAndFlag (s : State) (x : Reg) (b : Byte) (f : Bool) :
    Frame [.v] s (s.setResultAndFlag x b f) :=
  (Frame.of_setReg s x b).trans (.of_setReg _ vf _)

/-! ## What each instruction writes -/

/-- From `s` to `t` the instruction wrote only what its rows of R20 and R23 name. -/
structure WritesOnly (i : Instr) (s t : State) : Prop where
  frame : Frame (writtenBy i) s t
  regs : ∀ r : Reg, writesReg i r = false → t.reg r = s.reg r

/-- An instruction that writes no register. -/
theorem WritesOnly.of_frame {i : Instr} {s t : State} (h : Frame (writtenBy i) s t)
    (hv : .v ∉ writtenBy i := by simp [writtenBy]) : WritesOnly i s t :=
  ⟨h, fun r _ => h .v hv r⟩

/-- An instruction that writes a result to `V[x]` and no other register. -/
theorem WritesOnly.of_setReg {i : Instr} {x : Reg} {s : State} (b : Byte) (hw : writtenBy i = [.pc, .v])
    (hr : ∀ r, writesReg i r = (r == x)) : WritesOnly i s (s.setReg x b).advance where
  frame := hw ▸ (Frame.of_setReg s x b).advance
  regs r h := by
    have hrx : r ≠ x := by simpa [hr] using h
    simp [State.reg_setReg, hrx]

/-- An instruction that writes a result to `V[x]` and a flag to VF (R160). -/
theorem WritesOnly.of_setResultAndFlag {i : Instr} {x : Reg} {s : State} (b : Byte) (f : Bool)
    (hw : writtenBy i = [.pc, .v]) (hr : ∀ r, writesReg i r = (r == x || r == vf)) :
    WritesOnly i s (s.setResultAndFlag x b f).advance where
  frame := hw ▸ (Frame.of_setResultAndFlag s x b f).advance
  regs r h := by
    have hrx : r ≠ x ∧ r ≠ vf := by simpa [hr] using h
    simp [State.reg_setResultAndFlag, hrx]

theorem WritesOnly.rnd (x : Reg) (kk b : Byte) (s : State) :
    WritesOnly (.rnd x kk) s (s.setReg x b).countDraw.advance where
  frame := ((Frame.of_setReg s x b).append (.of_countDraw _)).advance
  regs r h := by
    have hrx : r ≠ x := by simpa [writesReg] using h
    simp [State.reg_setReg, hrx]

theorem WritesOnly.drw (x y : Reg) (n : Nibble) (fb : FrameBuffer) (b : Byte) (s : State) :
    WritesOnly (.drw x y n) s (((s.setFb fb).setReg vf b).setDirty true).advance where
  frame := (((Frame.of_setFb s fb).append (.of_setReg _ vf b)).append (.of_setDirty _ true)).advance.weaken
    (by simp [writtenBy])
  regs r h := by
    have hrf : r ≠ vf := by simpa [writesReg] using h
    simp [State.reg_setReg, hrf]

theorem WritesOnly.loadRegs (x : Reg) (s : State) :
    WritesOnly (.loadRegs x) s (State.advance { s with v := s.loadedRegs x }) where
  frame := (Frame.of_registers s _).advance
  regs r h := by
    have hrx : ¬ r ≤ x := by simpa [writesReg] using h
    exact (State.loadedRegs_get s x r).trans (if_neg hrx)

/-- An instruction completes and writes only its own, or raises the one fault it can raise (R20, R252, R256). -/
theorem exec_completes_or_faults (i : Instr) (s : State) :
    ∃ t, exec i s = .next t ∧ (WritesOnly i s t ∨ ∃ c, causeOf i = some c ∧ t = s.raise c (encode i)) := by
  cases i with
  | ldImm _ _ | addImm _ _ | ldReg _ _ | orReg _ _ | andReg _ _ | xorReg _ _ | ldVxDT _ =>
    exact ⟨_, rfl, .inl (.of_setReg _ rfl fun _ => rfl)⟩
  | addReg _ _ | subReg _ _ | shr _ _ | subnReg _ _ | shl _ _ =>
    exact ⟨_, rfl, .inl (.of_setResultAndFlag _ _ rfl fun _ => rfl)⟩
  | rnd x kk => exact ⟨_, rfl, .inl (.rnd x kk _ s)⟩
  | cls =>
    exact ⟨_, rfl, .inl (.of_frame ((Frame.of_setFb s _).append (.of_setDirty _ true)).advance)⟩
  | seImm _ _ | sneImm _ _ | seReg _ _ | sneReg _ _ =>
    exact ⟨_, rfl, .inl (.of_frame (.of_skipIf s _))⟩
  | jp _ | jpV0 _ => exact ⟨_, rfl, .inl (.of_frame (.of_setPc s _))⟩
  | ldI _ | addI _ | ldF _ =>
    exact ⟨_, rfl, .inl (.of_frame (Frame.of_setI s _).advance)⟩
  | ldDTVx _ => exact ⟨_, rfl, .inl (.of_frame (Frame.of_setDT s _).advance)⟩
  | ldSTVx _ => exact ⟨_, rfl, .inl (.of_frame (Frame.of_setST s _).advance)⟩
  | ldVxK _ => exact ⟨_, rfl, .inl (.of_frame (.of_setRun s _))⟩
  | ret =>
    cases h : s.stack with
    | nil => exact ⟨_, exec_ret_of_nil h, .inr ⟨_, rfl, rfl⟩⟩
    | cons w rest => exact ⟨_, exec_ret_of_cons h, .inl (.of_frame (.of_setStack_setPc s _ _))⟩
  | call nnn =>
    by_cases h : s.stack.length < s.stackDepth
    · exact ⟨_, exec_call_of_room nnn h, .inl (.of_frame (.of_setStack_setPc s _ _))⟩
    · exact ⟨_, exec_call_of_full nnn h, .inr ⟨_, rfl, rfl⟩⟩
  | skp x =>
    rcases Nat.lt_or_ge (s.reg x).toNat 16 with h | h
    · exact ⟨_, exec_skp_of_lt h, .inl (.of_frame (.of_skipIf s _))⟩
    · exact ⟨_, exec_skp_of_ge h, .inr ⟨_, rfl, rfl⟩⟩
  | sknp x =>
    rcases Nat.lt_or_ge (s.reg x).toNat 16 with h | h
    · exact ⟨_, exec_sknp_of_lt h, .inl (.of_frame (.of_skipIf s _))⟩
    · exact ⟨_, exec_sknp_of_ge h, .inr ⟨_, rfl, rfl⟩⟩
  | drw x y n =>
    by_cases h : n.toNat = 0 ∨ s.i.toNat + n.toNat - 1 ≤ 0xFFF
    · exact ⟨_, exec_drw_inside h, .inl (.drw x y n _ _ s)⟩
    · exact ⟨_, exec_drw_outside (by omega) (by omega), .inr ⟨_, rfl, rfl⟩⟩
  | ldB x =>
    rcases Nat.lt_or_ge 0xFFF (s.i.toNat + 2) with h | h
    · exact ⟨_, exec_ldB_outside h, .inr ⟨_, rfl, rfl⟩⟩
    · exact ⟨_, exec_ldB_inside h, .inl (.of_frame (Frame.of_storeBytes s _ _).advance)⟩
  | storeRegs x =>
    rcases Nat.lt_or_ge 0xFFF (s.i.toNat + x.val) with h | h
    · exact ⟨_, exec_storeRegs_outside h, .inr ⟨_, rfl, rfl⟩⟩
    · exact ⟨_, exec_storeRegs_inside h, .inl (.of_frame (Frame.of_storeBytes s _ _).advance)⟩
  | loadRegs x =>
    rcases Nat.lt_or_ge 0xFFF (s.i.toNat + x.val) with h | h
    · exact ⟨_, exec_loadRegs_outside h, .inr ⟨_, rfl, rfl⟩⟩
    · exact ⟨_, exec_loadRegs_inside h, .inl (.loadRegs x s)⟩

/-- Whatever next state an instruction answers, it completed or faulted. -/
theorem exec_cases {i : Instr} {s t : State} (h : exec i s = .next t) :
    WritesOnly i s t ∨ ∃ c, causeOf i = some c ∧ t = s.raise c (encode i) := by
  obtain ⟨u, hu, completes_or_faults⟩ := exec_completes_or_faults i s
  cases hu.symm.trans h
  exact completes_or_faults

/-- A piece of state that the instruction's row does not name stays as it was, a fault entry's `FAULT` and `RUN` apart. -/
theorem exec_same {i : Instr} {s t : State} {f : Piece} (h : exec i s = .next t) (hw : f ∉ writtenBy i)
    (hf : f ∉ [Piece.fault, Piece.run]) : f.Same s t := by
  rcases exec_cases h with writes | ⟨c, -, rfl⟩
  · exact writes.frame f hw
  · exact (Faults.of_raise s c _).2.2 f hf

/-! ## The timers -/

/-- Only `Fx15` writes `DT`, from a register (R28). -/
theorem exec_dt {i : Instr} {s t : State} (h : exec i s = .next t) : t.dt = s.dt ∨ ∃ x, t.dt = s.reg x := by
  by_cases hw : .dt ∈ writtenBy i
  · obtain ⟨x, rfl⟩ : ∃ x, i = .ldDTVx x := by cases i <;> simp_all [writtenBy]
    cases h
    exact .inr ⟨x, rfl⟩
  · exact .inl (exec_same (f := .dt) h hw (by simp))

/-- Only `Fx18` writes `ST`, from a register (R29). -/
theorem exec_st {i : Instr} {s t : State} (h : exec i s = .next t) : t.st = s.st ∨ ∃ x, t.st = s.reg x := by
  by_cases hw : .st ∈ writtenBy i
  · obtain ⟨x, rfl⟩ : ∃ x, i = .ldSTVx x := by cases i <;> simp_all [writtenBy]
    cases h
    exact .inr ⟨x, rfl⟩
  · exact .inl (exec_same (f := .st) h hw (by simp))

/-- A cycle leaves each timer or writes it from a register: it never counts (R264). -/
theorem step_timers {s t : State} (h : step s = .next t) :
    (t.dt = s.dt ∨ ∃ x, t.dt = s.reg x) ∧ (t.st = s.st ∨ ∃ x, t.st = s.reg x) := by
  rcases step_cases h with ⟨-, rfl⟩ | ⟨-, -, rfl⟩ | ⟨-, -, op, why, -, -, rfl⟩ | ⟨-, -, op, i, -, -, hx⟩
  · exact ⟨.inl rfl, .inl rfl⟩
  · exact ⟨.inl rfl, .inl rfl⟩
  · exact ⟨.inl rfl, .inl rfl⟩
  · exact ⟨exec_dt hx, exec_st hx⟩

theorem countDown_toNat (b : Byte) : (countDown b).toNat = b.toNat - 1 := by
  unfold countDown
  split
  · exact BitVec.toNat_sub_of_le (by simp [BitVec.le_def]; omega)
  · omega

theorem hostTimerTick_of_running {s : State} (h : s.run = .running) :
    hostTimerTick s = .next ((s.setDT (countDown s.dt)).setST (countDown s.st)) := by
  simp only [hostTimerTick, h]

theorem hostTimerTick_of_not_running {s : State} (h : s.run ≠ .running) : hostTimerTick s = .next s := by
  unfold hostTimerTick
  split
  · contradiction
  · rfl
  · rfl

/-- A tick writes the timers only (R264). -/
theorem hostTimerTick_frame {s t : State} (h : hostTimerTick s = .next t) : Frame [.dt, .st] s t := by
  by_cases running : s.run = .running
  · cases (hostTimerTick_of_running running).symm.trans h
    exact (Frame.of_setDT s _).append (.of_setST _ _)
  · cases (hostTimerTick_of_not_running running).symm.trans h
    exact .refl _ s

/-- A KeyPress writes the key flags and what completes a key wait (R235, R265). -/
theorem hostKeyPress_frame {k : Key} {s t : State} (h : hostKeyPress k s = .next t) :
    Frame [.pc, .v, .keys, .run] s t := by
  unfold hostKeyPress at h
  split at h <;> cases h
  · exact (((Frame.of_setKey s k true).append (.of_setReg _ _ _)).advance.append (.of_setRun _ _)).weaken (by simp)
  · exact (Frame.of_setKey s k true).weaken (by simp)
  · exact (Frame.of_setKey s k true).weaken (by simp)

/-! ## `DIRTY` -/

/-- Where `DIRTY` is set, an instruction leaves it so: the two that write it set it (R35). -/
theorem exec_dirty {i : Instr} {s t : State} (h : exec i s = .next t) (hd : s.dirty = true) : t.dirty = true := by
  by_cases hw : .dirty ∈ writtenBy i
  · have writers : i = .cls ∨ ∃ x y n, i = .drw x y n := by cases i <;> simp_all [writtenBy]
    rcases writers with rfl | ⟨x, y, n, rfl⟩
    · cases h
      rfl
    · by_cases inside : n.toNat = 0 ∨ s.i.toNat + n.toNat - 1 ≤ 0xFFF
      · cases (exec_drw_inside inside).symm.trans h
        rfl
      · cases (exec_drw_outside (by omega) (by omega)).symm.trans h
        exact hd
  · exact (exec_same (f := .dirty) h hw (by simp)).trans hd

/-- No cycle clears `DIRTY` (R35). -/
theorem step_dirty {s t : State} (h : step s = .next t) (hd : s.dirty = true) : t.dirty = true := by
  rcases step_cases h with ⟨-, rfl⟩ | ⟨-, -, rfl⟩ | ⟨-, -, op, why, -, -, rfl⟩ | ⟨-, -, op, i, -, -, hx⟩
  · exact hd
  · exact hd
  · exact hd
  · exact exec_dirty hx hd

/-! ## What no step reads -/

/-- Values for the four pieces of state that no step reads: `ST`, `DIRTY`, `FAULT` and the reports. -/
structure Unread where
  st : Byte
  dirty : Bool
  fault : Option FaultRecord
  reports : List Report

/-- The state with those four pieces replaced. -/
def State.withUnread (s : State) (o : Unread) : State :=
  { s with st := o.st, dirty := o.dirty, fault := o.fault, reports := o.reports }

theorem Frame.of_withUnread (s : State) (o : Unread) : Frame [.st, .dirty, .fault, .reports] s (s.withUnread o) := by
  intro f hf
  cases f <;> simp_all [Piece.Same, State.withUnread, State.reg, State.readByte, State.key]

theorem State.withUnread_skipIf (s : State) (o : Unread) (c : Bool) :
    (s.withUnread o).skipIf c = (s.skipIf c).withUnread o := by
  cases c <;> rfl

/-- The two answers are next states that differ in the four pieces only. -/
def AgreeButUnread (r r' : Result) : Prop := ∃ t o, r = .next t ∧ r' = .next (State.withUnread t o)

/-- An instruction reads none of the four pieces. -/
theorem exec_withUnread (i : Instr) (s : State) (o : Unread) :
    AgreeButUnread (exec i s) (exec i (s.withUnread o)) := by
  cases i with
  | cls | ldImm _ _ | addImm _ _ | ldReg _ _ | orReg _ _ | andReg _ _ | xorReg _ _ | addReg _ _ | subReg _ _
  | shr _ _ | subnReg _ _ | shl _ _ | rnd _ _ | ldI _ | addI _ | ldF _ | ldVxDT _ | ldVxK _ | ldDTVx _ | ldSTVx _
  | jp _ | jpV0 _ =>
    exact ⟨_, ⟨_, _, _, _⟩, rfl, rfl⟩
  | seImm _ _ | sneImm _ _ | seReg _ _ | sneReg _ _ =>
    exact ⟨_, o, rfl, congrArg _ (s.withUnread_skipIf o _)⟩
  | ret =>
    cases h : s.stack with
    | nil => exact ⟨_, ⟨_, _, _, _⟩, exec_ret_of_nil h, exec_ret_of_nil (s := s.withUnread o) h⟩
    | cons w rest => exact ⟨_, o, exec_ret_of_cons h, exec_ret_of_cons (s := s.withUnread o) h⟩
  | call nnn =>
    by_cases h : s.stack.length < s.stackDepth
    · exact ⟨_, o, exec_call_of_room nnn h, exec_call_of_room (s := s.withUnread o) nnn h⟩
    · exact ⟨_, ⟨_, _, _, _⟩, exec_call_of_full nnn h, exec_call_of_full (s := s.withUnread o) nnn h⟩
  | skp x =>
    rcases Nat.lt_or_ge (s.reg x).toNat 16 with h | h
    · exact ⟨_, o, exec_skp_of_lt h,
        (exec_skp_of_lt (s := s.withUnread o) h).trans (congrArg _ (s.withUnread_skipIf o _))⟩
    · exact ⟨_, ⟨_, _, _, _⟩, exec_skp_of_ge h, exec_skp_of_ge (s := s.withUnread o) h⟩
  | sknp x =>
    rcases Nat.lt_or_ge (s.reg x).toNat 16 with h | h
    · exact ⟨_, o, exec_sknp_of_lt h,
        (exec_sknp_of_lt (s := s.withUnread o) h).trans (congrArg _ (s.withUnread_skipIf o _))⟩
    · exact ⟨_, ⟨_, _, _, _⟩, exec_sknp_of_ge h, exec_sknp_of_ge (s := s.withUnread o) h⟩
  | drw x y n =>
    by_cases h : n.toNat = 0 ∨ s.i.toNat + n.toNat - 1 ≤ 0xFFF
    · exact ⟨_, ⟨_, _, _, _⟩, exec_drw_inside h, exec_drw_inside (s := s.withUnread o) h⟩
    · have outside : 1 ≤ n.toNat ∧ 0xFFF < s.i.toNat + n.toNat - 1 := by omega
      exact ⟨_, ⟨_, _, _, _⟩, exec_drw_outside outside.1 outside.2,
        exec_drw_outside (s := s.withUnread o) outside.1 outside.2⟩
  | ldB x =>
    rcases Nat.lt_or_ge 0xFFF (s.i.toNat + 2) with h | h
    · exact ⟨_, ⟨_, _, _, _⟩, exec_ldB_outside h, exec_ldB_outside (s := s.withUnread o) h⟩
    · exact ⟨_, o, exec_ldB_inside h, exec_ldB_inside (s := s.withUnread o) h⟩
  | storeRegs x =>
    rcases Nat.lt_or_ge 0xFFF (s.i.toNat + x.val) with h | h
    · exact ⟨_, ⟨_, _, _, _⟩, exec_storeRegs_outside h, exec_storeRegs_outside (s := s.withUnread o) h⟩
    · exact ⟨_, o, exec_storeRegs_inside h, exec_storeRegs_inside (s := s.withUnread o) h⟩
  | loadRegs x =>
    rcases Nat.lt_or_ge 0xFFF (s.i.toNat + x.val) with h | h
    · exact ⟨_, ⟨_, _, _, _⟩, exec_loadRegs_outside h, exec_loadRegs_outside (s := s.withUnread o) h⟩
    · exact ⟨_, o, exec_loadRegs_inside h, exec_loadRegs_inside (s := s.withUnread o) h⟩

/-! ## A step, from what it meets -/

theorem step_of_not_running {s : State} (h : s.run ≠ .running) : step s = .next s := by
  rcases cycle_cases s with ⟨-, hc⟩ | ⟨running, -⟩
  · exact hc
  · exact absurd running h

theorem step_of_running {s : State} (h : s.run = .running) : step s = cycleRunning s := by
  rcases cycle_cases s with ⟨waits, -⟩ | ⟨-, hc⟩
  · exact absurd h waits
  · exact hc

theorem cycleRunning_of_outside {s : State} (h : 0xFFE < s.pc.toNat) :
    cycleRunning s = .next (s.raise .fetchOutOfRange 0x0000#16) := by
  simp only [cycleRunning, State.fetch_of_outside h]

theorem cycleRunning_of_invalid {s : State} {op : Word} {why : Reject} (hf : s.fetch = some op)
    (hd : decode op = .invalid why) : cycleRunning s = .next (s.skipInvalid op) := by
  simp only [cycleRunning, hf, hd]

theorem cycleRunning_of_insn {s : State} {op : Word} {i : Instr} (hf : s.fetch = some op)
    (hd : decode op = .insn i) : cycleRunning s = exec i s := by
  simp only [cycleRunning, hf, hd]

/-- A running core's cycle reads none of the four pieces. -/
theorem cycleRunning_withUnread (s : State) (o : Unread) :
    AgreeButUnread (cycleRunning s) (cycleRunning (s.withUnread o)) := by
  rcases cycleRunning_cases s with ⟨hp, h⟩ | ⟨op, why, -, hf, hd, h⟩ | ⟨op, i, -, hf, hd, h⟩
  · exact ⟨_, ⟨_, _, _, _⟩, h, cycleRunning_of_outside (s := s.withUnread o) hp⟩
  · exact ⟨_, ⟨_, _, _, _⟩, h, cycleRunning_of_invalid (s := s.withUnread o) hf hd⟩
  · rw [h, cycleRunning_of_insn (s := s.withUnread o) hf hd]
    exact exec_withUnread i s o

/-- A step reads none of the four pieces. -/
theorem step_withUnread (s : State) (o : Unread) : AgreeButUnread (step s) (step (s.withUnread o)) := by
  by_cases h : s.run = .running
  · rw [step_of_running h, step_of_running (s := s.withUnread o) h]
    exact cycleRunning_withUnread s o
  · exact ⟨s, o, step_of_not_running h, step_of_not_running (s := s.withUnread o) h⟩

/-! ## Reset -/

theorem State.reg_reset (r : Reg) : State.reset.reg r = 0x00#8 := by
  simp [State.reg, State.reset]

theorem State.key_reset (k : Key) : State.reset.key k = false := by
  simp [State.key, State.reset]

/-- The font loaded into an empty memory: its glyphs in 0x000 to 0x04F, zero above (R66, R290). -/
theorem Memory.read_glyphs (glyphs : Vector Byte 80) (a : Nat) :
    (Memory.writeBytes [] 0x000 glyphs.toList).read a = if h : a < 80 then glyphs[a] else 0x00#8 := by
  rw [Memory.read_writeBytes rfl (by simp [Config.memSize])]
  by_cases h : a < 80
  · simp [h]
  · simp [h, resetByte]

/-- Every byte of the bank after a Reset with a ROM that fits: the ROM from 0x200 on, the font in 0x000 to 0x04F, zero
elsewhere (R41, R290). -/
theorem State.readByte_afterReset (s : State) (glyphs : Vector Byte 80) {rom : List Byte} (fits : rom.length ≤ 3584)
    (a : Nat) :
    (s.afterReset glyphs rom).readByte a =
      if h : 0x200 ≤ a ∧ a < 0x200 + rom.length then rom[a - 0x200]
      else if h : a < 80 then glyphs[a] else 0x00#8 := by
  have font_wf : (Memory.writeBytes [] 0x000 glyphs.toList).wf = true :=
    Memory.wf_writeBytes rfl (by simp [Config.memSize])
  have rom_inside : 0x200 + rom.length ≤ Config.memSize := by rw [Config.memSize]; omega
  rw [← Memory.read_glyphs]
  exact Memory.read_writeBytes font_wf rom_inside a

theorem hostReset_of_fits {rom : List Byte} (fits : rom.length ≤ 3584) (glyphs : Vector Byte 80) (s : State) :
    hostReset glyphs rom s = .next (s.afterReset glyphs rom) :=
  if_pos (decide_eq_true fits)

theorem hostReset_of_long {rom : List Byte} (long : 3584 < rom.length) (glyphs : Vector Byte 80) (s : State) :
    hostReset glyphs rom s = .refused .romTooLong :=
  if_neg fun fits => Nat.not_le_of_lt long (of_decide_eq_true fits)

/-! ## The statements -/

/-- Settles O54, by the cases of a transition. -/
theorem faultRecordMatchesRunState : Obligations.FaultRecordMatchesRunState :=
  ⟨fun _ _ m h => (step_transition h).faultMatchesRun m, fun _ _ _ m h => (perform_transition h).faultMatchesRun m⟩

/-- Settles O55, by the cases of a transition. -/
theorem stackStaysBounded : Obligations.StackStaysBounded :=
  ⟨fun _ _ b h => (step_transition h).stackBounded b, fun _ _ _ b h => (perform_transition h).stackBounded b⟩

/-- Settles O56, by the cases of a transition. -/
theorem pcStaysInRange : Obligations.PcStaysInRange :=
  ⟨fun _ _ b h => (step_transition h).pcBounded b, fun _ _ _ b h => (perform_transition h).pcBounded b⟩

/-- Settles O42, by the run states of a tick and the cases of a step. -/
theorem timerTickCountsDown : Obligations.TimerTickCountsDown := by
  intro s
  refine ⟨fun running => ?_, hostTimerTick_of_not_running, fun t h => step_timers h⟩
  have tick := hostTimerTick_of_running running
  exact ⟨_, tick, countDown_toNat s.dt, countDown_toNat s.st, hostTimerTick_frame tick⟩

/-- Settles O45: the frame of a completed instruction, or the frame of a fault entry. -/
theorem instructionWritesOnlyItsOwn : Obligations.InstructionWritesOnlyItsOwn := by
  intro i s t h
  rcases exec_cases h with ⟨frame, regs⟩ | ⟨c, hc, rfl⟩
  · exact .inl ⟨frame, regs⟩
  · exact .inr ⟨c, hc, Faults.of_raise s c _⟩

/-- Settles O50: the other four operations leave a set `DIRTY` set. -/
theorem dirtyIsClearedOnlyByTheHost : Obligations.DirtyIsClearedOnlyByTheHost := by
  intro op s t h hs ht
  have cleared : t.dirty ≠ true := by simp [ht]
  cases op with
  | reset glyphs rom => exact .inr ⟨glyphs, rom, rfl⟩
  | clearDirty => exact .inl rfl
  | cycle => exact absurd (step_dirty h hs) cleared
  | timerTick => exact absurd ((hostTimerTick_frame h .dirty (by simp)).trans hs) cleared
  | keyPress k => exact absurd ((hostKeyPress_frame h .dirty (by simp)).trans hs) cleared
  | keyRelease k => cases h; exact absurd hs cleared

/-- Settles O52: the two steps agree but for the four pieces. -/
theorem stepIgnoresWhatNoInstructionReads : Obligations.StepIgnoresWhatNoInstructionReads := by
  intro s t st dirty fault reports h
  obtain ⟨t', o, ht, hu⟩ := step_withUnread s ⟨st, dirty, fault, reports⟩
  cases ht.symm.trans h
  exact ⟨_, hu, .of_withUnread t o⟩

/-- Settles O16, by the two cases of the stack. -/
theorem returnPopsOrFaults : Obligations.ReturnPopsOrFaults := by
  refine ⟨rfl, fun s w rest top => ?_, fun s empty => ?_⟩
  · exact ⟨_, exec_ret_of_cons top, rfl, rfl, Frame.of_setStack_setPc s rest w⟩
  · exact ⟨_, exec_ret_of_nil empty, Faults.of_raise s _ _⟩

/-- Settles O43: the registers, cells and keys are those of the reset state, the bytes those the Reset stored. -/
theorem resetBuildsTheWholeState : Obligations.ResetBuildsTheWholeState := by
  intro glyphs rom s
  refine ⟨fun fits => ?_, fun long => hostReset_of_long long glyphs s⟩
  have bytes := State.readByte_afterReset s glyphs fits
  refine ⟨_, hostReset_of_fits fits glyphs s, State.reg_reset, rfl, rfl, rfl, rfl, rfl, fun a h => ?font,
    fun a h h' => ?gap, fun k h => ?rom, fun a h h' => ?above, FrameBuffer.cell_clear, rfl, State.key_reset, rfl, rfl,
    rfl⟩
  case font => rw [bytes, dif_neg (by omega), dif_pos h]
  case gap => rw [bytes, dif_neg (by omega), dif_neg (by omega)]
  case rom =>
    rw [bytes, dif_pos ⟨by omega, by omega⟩]
    simp only [Nat.add_sub_cancel_left]
  case above => rw [bytes, dif_neg (by omega), dif_neg (by omega)]

end Sys2Proof.Machine
end

section
/-! PROOFS. The decoder reads back every encoded instruction (spec/30_encoding.md R92, R94); a fetch finds the bytes
that were stored where it reads (spec/20_memory.md R61, R69, R72); and the statements of the family 20_memory. -/

namespace Sys2Proof

/-- Two bytes as a number, high byte first (R61). -/
theorem joinBytes_toNat (hi lo : Byte) : (joinBytes hi lo).toNat = hi.toNat * 256 + lo.toNat := by
  rw [joinBytes, BitVec.toNat_append, ← Nat.shiftLeft_add_eq_or_of_lt lo.isLt, Nat.shiftLeft_eq]

/-- Decoding the word of an instruction gives the instruction back: the dispatch reads the nibbles its format fixes, and
the operands are the fields it was made from (R92, R94). -/
theorem decode_encode (i : Instr) : decode (encode i) = .insn i := by
  cases i with
  | cls | ret => rfl
  | jp _ | call _ | ldI _ | jpV0 _ | seImm _ _ | sneImm _ _ | ldImm _ _ | addImm _ _ | rnd _ _ | seReg _ _ | sneReg _ _
  | drw _ _ _ =>
    simp [encode, decode]
  | ldReg _ _ | orReg _ _ | andReg _ _ | xorReg _ _ | addReg _ _ | subReg _ _ | shr _ _ | subnReg _ _ | shl _ _ =>
    simp [encode, decode, decodeEight]
  | skp _ | sknp _ => simp [encode, decode, decodeE]
  | ldVxDT _ | ldVxK _ | ldDTVx _ | ldSTVx _ | addI _ | ldF _ | ldB _ | storeRegs _ | loadRegs _ =>
    simp [encode, decode, decodeF]

/-- The opcode table's number of a word stands for that word (R7). -/
theorem tableWord_toNat (op : Word) : tableWord 16 op.toNat = op := by
  rw [tableWord, Nat.mod_eq_of_lt op.isLt, BitVec.ofNat_toNat, BitVec.setWidth_eq]

end Sys2Proof

namespace Sys2Proof.Machine

/-! ## The fetch after a store -/

/-- A fetch from where at least two bytes have been stored finds the first two, with nothing in between (R72). -/
theorem State.fetch_of_stored {t : State} {m : Memory} {a : Nat} {bs : List Byte} (w : m.wf = true)
    (pc : t.pc.toNat = a) (stored : t.mem = m.writeBytes a bs) (two : 1 < bs.length)
    (fits : a + bs.length ≤ Config.memSize) : t.fetch = some (joinBytes bs[0] bs[1]) := by
  have inside : t.pc.toNat ≤ 0xFFE := by rw [Config.memSize] at fits; omega
  have byte (k : Nat) (h : k < bs.length) : t.readByte (a + k) = bs[k] := by
    rw [State.readByte, stored, Memory.read_writeBytes w fits, dif_pos (by omega)]
    simp only [Nat.add_sub_cancel_left]
  rw [State.fetch_of_inside inside, pc]
  exact congrArg some (congrArg₂ joinBytes (byte 0 (by omega)) (byte 1 two))

/-- A word is placed at an address it can be fetched from (R121). -/
theorem State.placePc_toNat_le (s : State) : s.placePc.toNat ≤ 0xFFE := by
  unfold State.placePc
  split
  · next h => rw [Config.memSize] at h; omega
  · decide

/-- A placed word is the one the next cycle fetches (R61, R121). -/
theorem State.fetch_placeWord {s : State} (w : s.mem.wf = true) (op : Word) : (s.placeWord op).fetch = some op := by
  have inside := s.placePc_toNat_le
  have fetched : (s.placeWord op).fetch = some (joinBytes (highByte op) (lowByte op)) :=
    State.fetch_of_stored (a := s.placePc.toNat) (bs := [highByte op, lowByte op]) w rfl rfl Nat.one_lt_two
      (by rw [List.length_cons, List.length_singleton, Config.memSize]; omega)
  rw [fetched, joinBytes_high_low]

/-- A running core that fetches an instruction's word runs the instruction (R120, R121). -/
theorem step_of_fetch_encode {s : State} {i : Instr} (running : s.run = .running) (h : s.fetch = some (encode i)) :
    step s = exec i s := by
  rw [step_of_running running, cycleRunning_of_insn h (decode_encode i)]

/-! ## The statements -/

/-- Settles O53, by the cases of a transition. -/
theorem memoryStaysCanonical : Obligations.MemoryStaysCanonical :=
  ⟨fun _ _ w h => (step_transition h).mem_wf w, fun _ _ _ w h => (perform_transition h).mem_wf w⟩

/-- Settles O12: the placed word is fetched, and it decodes to the instruction it was made from. -/
theorem placedWordIsFetchedAndRun : Obligations.PlacedWordIsFetchedAndRun := by
  intro i s w
  rw [State.withFetchWord, tableWord_toNat]
  exact step_of_fetch_encode rfl (State.fetch_placeWord w (encode i))

/-- Settles O32: the store puts V0 and V1 where `PC` points after the advance. -/
theorem storeIsSeenByTheNextFetch : Obligations.StoreIsSeenByTheNextFetch := by
  intro x s t w atNext two inside h
  cases (exec_storeRegs_inside inside).symm.trans h
  have length := s.regBytes_length x
  have target : (s.pc + 2#16).toNat = s.effAddr 0 := by
    rw [BitVec.toNat_add, BitVec.toNat_ofNat, State.effAddr]; omega
  rw [State.fetch_of_stored w target rfl (by omega) (by rw [State.effAddr, Config.memSize]; omega),
    State.regBytes_getElem, State.regBytes_getElem]
  rfl

/-- Settles O7, by the two sides of the fetch's range test. -/
theorem fetchOrFault : Obligations.FetchOrFault := by
  intro s running
  refine ⟨fun inside => ?_, fun outside => ?_⟩
  · exact ⟨_, State.fetch_of_inside inside, joinBytes_toNat _ _⟩
  · exact ⟨_, (step_of_running running).trans (cycleRunning_of_outside outside), Faults.of_raise s _ _⟩

end Sys2Proof.Machine
end

section
/-! PROOFS. A row of the opcode map selects exactly the words that decode to an instruction of the row, and such a word is
the encoding of what it decodes to (spec/30_encoding.md R92 to R97); and the statements of the family 30_encoding. -/

namespace Sys2Proof

/-! ## A word from its fields, where the format fixes some of them (R92) -/

theorem formatA_of_fields {op : Word} {t : BitVec 4} (ht : fieldT op = t) : formatA t (fieldNNN op) = op := by
  rw [← ht, formatA_fields]

theorem formatXK_of_fields {op : Word} {t : BitVec 4} {kk : Byte} (ht : fieldT op = t) (hk : fieldKK op = kk) :
    formatXK t (fieldX op) kk = op := by
  rw [← ht, ← hk, formatXK_fields]

theorem formatXYN_of_fields {op : Word} {t : BitVec 4} {n : Nibble} (ht : fieldT op = t) (hn : fieldN op = n) :
    formatXYN t (fieldX op) (fieldY op) n = op := by
  rw [← ht, ← hn, formatXYN_fields]

/-! ## The word of what each part of the dispatch decodes (R94, R95) -/

theorem encode_of_decodeZero {op : Word} {i : Instr} (h : decodeZero op = .insn i) : encode i = op := by
  unfold decodeZero at h
  split_ifs at h with hcls hret
  · cases h; exact hcls.symm
  · cases h; exact hret.symm

theorem encode_of_decodeEight {op : Word} {i : Instr} (ht : fieldT op = 0x8#4) (h : decodeEight op = .insn i) :
    encode i = op := by
  unfold decodeEight at h
  split at h <;> cases h
  all_goals
    next hn => exact formatXYN_of_fields ht (BitVec.eq_of_toNat_eq hn)

theorem encode_of_decodeE {op : Word} {i : Instr} (ht : fieldT op = 0xE#4) (h : decodeE op = .insn i) :
    encode i = op := by
  unfold decodeE at h
  split_ifs at h with hskp hsknp
  · cases h; exact formatXK_of_fields ht hskp
  · cases h; exact formatXK_of_fields ht hsknp

theorem encode_of_decodeF {op : Word} {i : Instr} (ht : fieldT op = 0xF#4) (h : decodeF op = .insn i) :
    encode i = op := by
  unfold decodeF at h
  dsimp only at h
  split_ifs at h
  all_goals
    cases h
    exact formatXK_of_fields ht ‹_›

/-- The fields an instruction was decoded from, put together again, are the word (R92, R94, R95). -/
theorem encode_of_decode {op : Word} {i : Instr} (h : decode op = .insn i) : encode i = op := by
  have nibble {n : Nat} (hn : (fieldT op).toNat = n) : fieldT op = BitVec.ofNat 4 n := by
    rw [← hn, BitVec.ofNat_toNat, BitVec.setWidth_eq]
  unfold decode at h
  -- The branches are the top nibbles 0 to F in order: `h_1` is nibble 0, `h_16` nibble F.
  split at h
  case h_1 => exact encode_of_decodeZero h
  case h_6 ht =>
    split_ifs at h with hn
    cases h; exact formatXYN_of_fields (nibble ht) hn
  case h_9 ht => exact encode_of_decodeEight (nibble ht) h
  case h_10 ht =>
    split_ifs at h with hn
    cases h; exact formatXYN_of_fields (nibble ht) hn
  case h_14 ht => cases h; exact formatXYN_of_fields (nibble ht) rfl
  case h_15 ht => exact encode_of_decodeE (nibble ht) h
  case h_16 =>
    have lt := (fieldT op).isLt
    have ht : (fieldT op).toNat = 0xF := by
      simp only [imp_false] at *
      omega
    exact encode_of_decodeF (nibble ht) h
  case h_2 ht | h_3 ht | h_11 ht | h_12 ht => cases h; exact formatA_of_fields (nibble ht)
  case h_4 ht | h_5 ht | h_7 ht | h_8 ht | h_13 ht => cases h; exact formatXK_of_fields (nibble ht) rfl

/-! ## The rows of the opcode map (R96) -/

/-- One instruction of each row, in the order of R96, every operand 0. -/
def rowInstrs : List Instr :=
  [.cls, .ret, .jp 0, .call 0, .seImm 0 0, .sneImm 0 0, .seReg 0 0,
   .ldImm 0 0, .addImm 0 0, .ldReg 0 0, .orReg 0 0, .andReg 0 0, .xorReg 0 0, .addReg 0 0, .subReg 0 0, .shr 0 0,
   .subnReg 0 0, .shl 0 0,
   .sneReg 0 0, .ldI 0, .jpV0 0, .rnd 0 0, .drw 0 0 0, .skp 0, .sknp 0,
   .ldVxDT 0, .ldVxK 0, .ldDTVx 0, .ldSTVx 0, .addI 0, .ldF 0, .ldB 0, .storeRegs 0, .loadRegs 0]

theorem opcodeMap_eq_map_rowOf : opcodeMap = rowInstrs.map rowOf := rfl

theorem rowOf_mem_opcodeMap (i : Instr) : rowOf i ∈ opcodeMap := by
  rw [opcodeMap_eq_map_rowOf]
  cases i <;> simp [rowInstrs, rowOf]

theorem exists_rowOf_eq {r : OpcodeRow} (h : r ∈ opcodeMap) : ∃ i, rowOf i = r := by
  rw [opcodeMap_eq_map_rowOf] at h
  obtain ⟨i, -, hi⟩ := List.mem_map.mp h
  exact ⟨i, hi⟩

/-- Two words that one row selects agree in every field the row fixes. -/
theorem extractLsb'_eq_of_selects {r : OpcodeRow} {op op' : Word} {k w : Nat}
    (fixes : r.mask.extractLsb' k w = BitVec.allOnes w) (h : r.selects op = true) (h' : r.selects op' = true) :
    op.extractLsb' k w = op'.extractLsb' k w := by
  have masked : op &&& r.mask = op' &&& r.mask := (eq_of_beq h).trans (eq_of_beq h').symm
  simpa [BitVec.extractLsb'_and, fixes] using congrArg (BitVec.extractLsb' k w) masked

open Laws.RowFits in
/-- The word of every instruction matches the instruction's own row. -/
theorem rowOf_selects_encode : (i : Instr) → (rowOf i).selects (encode i) = true
  | .cls => cls | .ret => ret | .jp _ => jp _ | .call _ => call _ | .seImm _ _ => seImm _ _
  | .sneImm _ _ => sneImm _ _ | .seReg _ _ => seReg _ _ | .ldImm _ _ => ldImm _ _ | .addImm _ _ => addImm _ _
  | .ldReg _ _ => ldReg _ _ | .orReg _ _ => orReg _ _ | .andReg _ _ => andReg _ _ | .xorReg _ _ => xorReg _ _
  | .addReg _ _ => addReg _ _ | .subReg _ _ => subReg _ _ | .shr _ _ => shr _ _ | .subnReg _ _ => subnReg _ _
  | .shl _ _ => shl _ _ | .sneReg _ _ => sneReg _ _ | .ldI _ => ldI _ | .jpV0 _ => jpV0 _ | .rnd _ _ => rnd _ _
  | .drw _ _ _ => drw _ _ _ | .skp _ => skp _ | .sknp _ => sknp _ | .ldVxDT _ => ldVxDT _ | .ldVxK _ => ldVxK _
  | .ldDTVx _ => ldDTVx _ | .ldSTVx _ => ldSTVx _ | .addI _ => addI _ | .ldF _ => ldF _ | .ldB _ => ldB _
  | .storeRegs _ => storeRegs _ | .loadRegs _ => loadRegs _

/-- Every row fixes the top nibble, the field the dispatch tests first (R94). -/
theorem fieldT_of_selects {i : Instr} {op : Word} (h : (rowOf i).selects op = true) :
    fieldT op = fieldT (encode i) :=
  extractLsb'_eq_of_selects (by cases i <;> simp [rowOf]) h (rowOf_selects_encode i)

theorem fieldN_of_selects {i : Instr} {op : Word} (mask : (rowOf i).mask = 0xF00F#16)
    (h : (rowOf i).selects op = true) : fieldN op = fieldN (encode i) :=
  extractLsb'_eq_of_selects (mask ▸ rfl) h (rowOf_selects_encode i)

theorem fieldKK_of_selects {i : Instr} {op : Word} (mask : (rowOf i).mask = 0xF0FF#16)
    (h : (rowOf i).selects op = true) : fieldKK op = fieldKK (encode i) :=
  extractLsb'_eq_of_selects (mask ▸ rfl) h (rowOf_selects_encode i)

/-- A word that an instruction's row selects decodes to an instruction of that row: the dispatch tests only fields the
row fixes (R94, R96). -/
theorem decode_of_rowOf_selects {i : Instr} {op : Word} (h : (rowOf i).selects op = true) :
    ∃ j, decode op = .insn j ∧ rowOf j = rowOf i := by
  have ht := fieldT_of_selects h
  cases i with
  | cls | ret =>
    have word := eq_of_beq h
    rw [show (rowOf _).mask = BitVec.allOnes 16 from rfl, BitVec.and_allOnes] at word
    exact ⟨_, congrArg decode word, rfl⟩
  | jp _ | call _ | ldI _ | jpV0 _ | seImm _ _ | sneImm _ _ | ldImm _ _ | addImm _ _ | rnd _ _ | drw _ _ _ =>
    simp [decode, ht, encode, rowOf]
  | seReg _ _ | sneReg _ _ =>
    have hn := fieldN_of_selects rfl h
    simp [decode, ht, hn, encode, rowOf]
  | ldReg _ _ | orReg _ _ | andReg _ _ | xorReg _ _ | addReg _ _ | subReg _ _ | shr _ _ | subnReg _ _ | shl _ _ =>
    have hn := fieldN_of_selects rfl h
    simp [decode, decodeEight, ht, hn, encode, rowOf]
  | skp _ | sknp _ =>
    have hk := fieldKK_of_selects rfl h
    simp [decode, decodeE, ht, hk, encode, rowOf]
  | ldVxDT _ | ldVxK _ | ldDTVx _ | ldSTVx _ | addI _ | ldF _ | ldB _ | storeRegs _ | loadRegs _ =>
    have hk := fieldKK_of_selects rfl h
    simp [decode, decodeF, ht, hk, encode, rowOf]

theorem decode_of_selects {r : OpcodeRow} {op : Word} (hr : r ∈ opcodeMap) (h : r.selects op = true) :
    ∃ i, decode op = .insn i ∧ rowOf i = r := by
  obtain ⟨i, rfl⟩ := exists_rowOf_eq hr
  exact decode_of_rowOf_selects h

/-- The words of the opcode map are the words that decode to an instruction (R95, R97). -/
theorem wordValid_iff {op : Word} : wordValid op = true ↔ ∃ i, decode op = .insn i := by
  rw [wordValid, List.any_eq_true]
  constructor
  · rintro ⟨r, hr, h⟩
    obtain ⟨i, hi, -⟩ := decode_of_selects hr h
    exact ⟨i, hi⟩
  · rintro ⟨i, hi⟩
    cases encode_of_decode hi
    exact ⟨rowOf i, rowOf_mem_opcodeMap i, rowOf_selects_encode i⟩

/-! ## The statements -/

/-- Settles O2, by the constructors of the instruction. -/
theorem decodeOfEncode : Obligations.DecodeOfEncode := decode_encode

/-- Settles O3, by the branches of the dispatch. -/
theorem encodeOfDecode : Obligations.EncodeOfDecode := fun _ _ => encode_of_decode

/-- Settles O4: the words of the opcode map are those that decode to an instruction. -/
theorem invalidExactlyOffTheMap : Obligations.InvalidExactlyOffTheMap := by
  intro op
  rw [← Bool.not_eq_true, wordValid_iff]
  cases decode op <;> simp

/-- Settles O5: both rows are the row of the one instruction the word decodes to. -/
theorem opcodeRowsDisjoint : Obligations.OpcodeRowsDisjoint := by
  intro op r q hr hq selr selq
  obtain ⟨i, hi, rfl⟩ := decode_of_selects hr selr
  obtain ⟨j, hj, rfl⟩ := decode_of_selects hq selq
  cases hi.symm.trans hj
  rfl

/-- Settles O1, by running the decoder on the words. -/
theorem specWordsDecode : Obligations.SpecWordsDecode := by
  unfold Obligations.SpecWordsDecode
  decide

end Sys2Proof
end

section
/-! PROOFS. A step answers a next state from every state, the Cycle request of the host is a step, an invalid word writes
`PC` and the reports only (spec/40_cycle.md R120, R124 to R126); and the statements of the family 40_cycle. -/

namespace Sys2Proof.Machine

/-! ## What a step answers -/

/-- A running core's cycle answers a next state, whichever word it meets (R120). -/
theorem cycleRunning_next (s : State) : ∃ t, cycleRunning s = .next t := by
  rcases cycleRunning_cases s with ⟨-, h⟩ | ⟨op, why, -, -, -, h⟩ | ⟨op, i, -, -, -, h⟩
  · exact ⟨_, h⟩
  · exact ⟨_, h⟩
  · obtain ⟨t, ht, -⟩ := exec_completes_or_faults i s
    exact ⟨t, h.trans ht⟩

/-- The Cycle request of the host is one step (R263). -/
theorem perform_cycle (s : State) : perform .cycle s = step s := rfl

/-- Outside `Running` a step, and so the Cycle request, holds the state (R125, R126). -/
theorem cycle_holds_of_not_running {s : State} (h : s.run ≠ .running) :
    step s = .next s ∧ perform .cycle s = .next s := by
  rw [perform_cycle]
  exact ⟨step_of_not_running h, step_of_not_running h⟩

/-! ## The invalid word -/

theorem Frame.of_report (s : State) (op : Word) : Frame [.reports] s (s.report op) := by
  intro f hf
  cases f <;> simp_all [Piece.Same]

/-- An invalid word writes `PC` and the reports (R124). -/
theorem Frame.of_skipInvalid (s : State) (op : Word) : Frame [.pc, .reports] s (s.skipInvalid op) :=
  (Frame.of_report s op).advance

/-! ## The statements -/

/-- Settles O11: a core that does not run holds, and a running core's cycle answers a next state. -/
theorem stepAlwaysAnswersNext : Obligations.StepAlwaysAnswersNext := by
  intro s
  by_cases running : s.run = .running
  · rw [step_of_running running]
    exact cycleRunning_next s
  · exact ⟨s, step_of_not_running running⟩

/-- Settles O6: the bytes at `PC` are the word fetched. -/
theorem stepRunsDecodedInstruction : Obligations.StepRunsDecodedInstruction := by
  intro s i running inside decoded
  rw [step_of_running running, cycleRunning_of_insn (State.fetch_of_inside inside) decoded]

/-- Settles O8: a word off the opcode map is one the decoder rejects. -/
theorem invalidOpcodeIsReportedAndSkipped : Obligations.InvalidOpcodeIsReportedAndSkipped := by
  rintro s op running inside rfl offMap
  obtain ⟨why, rejected⟩ := (invalidExactlyOffTheMap _).2 offMap
  exact ⟨_, (step_of_running running).trans (cycleRunning_of_invalid (State.fetch_of_inside inside) rejected), rfl,
    BitVec.toNat_add _ _, Frame.of_skipInvalid s _⟩

/-- Settles O9: a core that waits for a key does not run. -/
theorem cycleHoldsWhileAwaitingKey : Obligations.CycleHoldsWhileAwaitingKey := by
  intro s x waiting
  exact cycle_holds_of_not_running (by simp [waiting])

/-- Settles O10: a faulted core does not run. -/
theorem cycleHoldsWhenFaulted : Obligations.CycleHoldsWhenFaulted := by
  intro s faulted
  exact cycle_holds_of_not_running (by simp [faulted])

end Sys2Proof.Machine
end

section
/-! PROOFS. A call and the return that follows it are a plain advance, a jump to itself holds the state, a skip
instruction advances `PC` by 4 or by 2, and the invalid neighbours of the two-register skips
(spec/41_control_flow.md R140 to R149, spec/30_encoding.md R95); and the statements of the family 41_control_flow. -/

namespace Sys2Proof

/-! ## Words of the control transfer instructions -/

/-- A number with the fields of format XY or XYN is the word with those fields (R92). -/
theorem ofNat_eq_formatXYN (t : BitVec 4) (x y : Reg) {n : Nat} (lt : n < 16) :
    BitVec.ofNat 16 (t.toNat * 4096 + x.val * 256 + y.val * 16 + n) = formatXYN t x y (BitVec.ofNat 4 n) := by
  have value := formatXYN_toNat t x y (BitVec.ofNat 4 n)
  rw [BitVec.toNat_ofNat, Nat.mod_eq_of_lt lt] at value
  rw [← value, BitVec.ofNat_toNat, BitVec.setWidth_eq]

theorem ofNat_nibble_ne_zero {n : Nat} (pos : 0 < n) (lt : n < 16) : BitVec.ofNat 4 n ≠ 0#4 := by
  rw [BitVec.toNat_ne, BitVec.toNat_ofNat, BitVec.toNat_ofNat]
  omega

/-- `5xyN` with `N != 0` is invalid (R95, D16). -/
theorem decode_formatXYN_five {x y : Reg} {n : Nibble} (h : n ≠ 0#4) :
    decode (formatXYN 0x5#4 x y n) = .invalid .invalidFive := by
  simp [decode, h]

/-- `9xyN` with `N != 0` is invalid (R95, D16). -/
theorem decode_formatXYN_nine {x y : Reg} {n : Nibble} (h : n ≠ 0#4) :
    decode (formatXYN 0x9#4 x y n) = .invalid .invalidNine := by
  simp [decode, h]

end Sys2Proof

namespace Sys2Proof.Machine

/-! ## Jumps -/

theorem exec_jp (nnn : Imm12) (s : State) : exec (.jp nnn) s = .next (s.setPc (immAddr nnn)) := rfl

theorem exec_jpV0 (nnn : Imm12) (s : State) :
    exec (.jpV0 nnn) s = .next (s.setPc (regWord (s.reg 0) + immAddr nnn)) := rfl

/-- The sum of `Bnnn` never wraps at 16 bits (R148, D26). -/
theorem offsetTarget_toNat (b : Byte) (nnn : Imm12) :
    (regWord b + immAddr nnn).toNat = b.toNat + nnn.toNat := by
  have hb := b.isLt
  have hn := nnn.isLt
  rw [BitVec.toNat_add, regWord_toNat, immAddr_toNat]
  omega

/-- The word 0x1000 + `PC` is the jump to `PC`, for every `PC` inside the bank (R142). -/
theorem encode_jp_of_inside {w : Word} (inside : w.toNat ≤ 0xFFE) :
    encode (.jp (w.setWidth 12)) = BitVec.ofNat 16 (0x1000 + w.toNat) := by
  apply BitVec.eq_of_toNat_eq
  rw [encode, formatA_toNat, BitVec.toNat_setWidth, BitVec.toNat_ofNat, BitVec.toNat_ofNat]
  omega

/-- The field `nnn` holds every address inside the bank without loss (R91). -/
theorem immAddr_setWidth_of_inside {w : Word} (inside : w.toNat ≤ 0xFFE) : immAddr (w.setWidth 12) = w := by
  apply BitVec.eq_of_toNat_eq
  rw [immAddr_toNat, BitVec.toNat_setWidth]
  omega

/-! ## A call and its return -/

/-- The return undoes the push of the call, so that a plain advance is left (R149). -/
theorem exec_call_ret_of_room (nnn : Imm12) {s : State} (room : s.stack.length < s.stackDepth) :
    ∃ t, exec (.call nnn) s = .next t ∧ exec .ret t = .next s.advance :=
  ⟨_, exec_call_of_room nnn room, exec_ret_of_cons rfl⟩

theorem PcAdvanced.of_advance (s : State) : PcAdvanced 2 s s.advance := BitVec.toNat_add _ _

/-! ## Skips -/

theorem PcAdvanced.of_skipIf (s : State) (c : Bool) : PcAdvanced (if c then 4 else 2) s (s.skipIf c) := by
  cases c <;> exact BitVec.toNat_add _ _

/-- An instruction that skips exactly when `p` holds advances `PC` by 4 or by 2 and writes nothing else (R140). -/
theorem skip_completes {i : Instr} {s : State} {c : Bool} {p : Prop} [Decidable p]
    (skips : exec i s = .next (s.skipIf c)) (test : c = true ↔ p) :
    ∃ t, exec i s = .next t ∧ PcAdvanced (if p then 4 else 2) s t ∧ Frame [.pc] s t := by
  refine ⟨_, skips, ?_, Frame.of_skipIf s c⟩
  have advanced := PcAdvanced.of_skipIf s c
  simpa only [test] using advanced

/-- The test of `3xkk` and `5xy0`, on numbers. -/
theorem beq_iff_toNat_eq (a b : Byte) : (a == b) = true ↔ a.toNat = b.toNat :=
  beq_iff_eq.trans BitVec.toNat_inj.symm

/-- The test of `4xkk` and `9xy0`, on numbers. -/
theorem bne_iff_toNat_ne (a b : Byte) : (a != b) = true ↔ a.toNat ≠ b.toNat :=
  bne_iff_ne.trans BitVec.toNat_ne

/-! ## The statements -/

/-- Settles O17: a call and its return are a plain advance. -/
theorem callThenReturnRoundTrip : Obligations.CallThenReturnRoundTrip := by
  intro nnn s room
  obtain ⟨t, called, returned⟩ := exec_call_ret_of_room nnn room
  exact ⟨t, _, called, returned, .of_advance s, Frame.of_setPc s _⟩

/-- Settles O51: the word is the jump to `PC`, which puts into `PC` what it holds. -/
theorem selfJumpIsAFixedPoint : Obligations.SelfJumpIsAFixedPoint := by
  intro s running inside word
  have fetched : s.fetch = some (encode (.jp (s.pc.setWidth 12))) := by
    rw [State.fetch_of_inside inside, word, encode_jp_of_inside inside]
  rw [step_of_fetch_encode running fetched, exec_jp, immAddr_setWidth_of_inside inside]
  rfl

/-- Settles O13, from the one arm of the jump. -/
theorem jumpSetsPc : Obligations.JumpSetsPc := fun nnn s =>
  ⟨formatA_toNat 0x1#4 nnn, _, exec_jp nnn s, immAddr_toNat nnn, Frame.of_setPc s _⟩

/-- Settles O14: the sum of a byte and 12 bits fits in `PC`. -/
theorem jumpWithOffsetSetsPc : Obligations.JumpWithOffsetSetsPc := fun nnn s =>
  ⟨formatA_toNat 0xB#4 nnn, _, exec_jpV0 nnn s, offsetTarget_toNat (s.reg 0) nnn, Frame.of_setPc s _⟩

/-- Settles O18, by the test of each skip. -/
theorem skipsOnImmediate : Obligations.SkipsOnImmediate := fun x kk _ =>
  ⟨formatXK_toNat 0x3#4 x kk, formatXK_toNat 0x4#4 x kk, skip_completes rfl (beq_iff_toNat_eq _ _),
    skip_completes rfl (bne_iff_toNat_ne _ _)⟩

/-- Settles O19, by the test of each skip; a low nibble from 1 to 15 is a field `n` that is not 0. -/
theorem skipsOnRegisters : Obligations.SkipsOnRegisters := by
  intro x y s
  refine ⟨formatXYN_toNat 0x5#4 x y 0#4, formatXYN_toNat 0x9#4 x y 0#4, fun n pos lt => ?_,
    skip_completes rfl (beq_iff_toNat_eq _ _), skip_completes rfl (bne_iff_toNat_ne _ _)⟩
  have nonzero := ofNat_nibble_ne_zero pos lt
  exact ⟨(congrArg decode (ofNat_eq_formatXYN 0x5#4 x y lt)).trans (decode_formatXYN_five nonzero),
    (congrArg decode (ofNat_eq_formatXYN 0x9#4 x y lt)).trans (decode_formatXYN_nine nonzero)⟩

end Sys2Proof.Machine
end

section
/-! PROOFS. The end of an instruction that writes a result, and of one that writes a result and a flag, each said once;
the flag and the result of each arithmetic operation as numbers (spec/42_alu.md R160 to R171); and the statements of the
family 42_alu. -/

namespace Sys2Proof

/-- A word of the top nibble 8, as a number (R92, R96). -/
theorem formatXYN_eight_toNat (x y : Reg) (n : Nibble) :
    (formatXYN 0x8#4 x y n).toNat = 0x8000 + n.toNat + x.val * 256 + y.val * 16 := by
  rw [formatXYN_toNat, BitVec.toNat_ofNat]
  omega

end Sys2Proof

namespace Sys2Proof.Machine

/-! ## The two ends of an instruction (R160) -/

/-- An instruction that ends with a result in `V[x]` and a plain advance: a property `P` of the next state that follows
from the result holds of it, and nothing but `V[x]` and `PC` is written. -/
theorem result_completes {i : Instr} {s : State} {x : Reg} {b : Byte} {P : State → Prop}
    (run : exec i s = .next (s.setReg x b).advance) (value : ∀ t : State, t.reg x = b → P t) :
    ∃ t, exec i s = .next t ∧ P t ∧ OthersKept x s t ∧ PcAdvanced 2 s t ∧ Frame [.pc, .v] s t := by
  refine ⟨_, run, value _ ?_, fun q other => ?_, PcAdvanced.of_advance (s.setReg x b),
    (Frame.of_setReg s x b).advance⟩
  · rw [State.reg_advance, State.reg_setReg_same]
  · rw [State.reg_advance, State.reg_setReg, if_neg other]

/-- An instruction that ends with a result in `V[x]`, then a flag in VF, and a plain advance: with `x` = 0xF the flag
stays (D8), and nothing but `V[x]`, VF and `PC` is written. -/
theorem resultAndFlag_completes {i : Instr} {s : State} {x : Reg} {b : Byte} {f : Bool} {result flag : Nat}
    (run : exec i s = .next (s.setResultAndFlag x b f).advance) (value : b.toNat = result) (bit : f.toNat = flag) :
    ∃ t, exec i s = .next t ∧ (x ≠ vf → (t.reg x).toNat = result) ∧ (t.reg vf).toNat = flag ∧
      OthersKeptButVF x s t ∧ PcAdvanced 2 s t ∧ Frame [.pc, .v] s t := by
  refine ⟨_, run, fun ordinary => ?_, ?_, fun q other notVf => ?_, PcAdvanced.of_advance (s.setResultAndFlag x b f),
    (Frame.of_setResultAndFlag s x b f).advance⟩
  · rw [State.reg_advance, State.reg_setResultAndFlag, if_neg ordinary, if_pos rfl, value]
  · rw [State.reg_advance, State.reg_setResultAndFlag, if_pos rfl, Flags.ofBool_toNat, bit]
  · rw [State.reg_advance, State.reg_setResultAndFlag, if_neg notVf, if_neg other]

/-! ## Flags as numbers -/

theorem Flags.carry_toNat (a b : Byte) :
    (Flags.carry a b).toNat = if a.toNat + b.toNat > 255 then 1 else 0 := Bool.cond_decide _ _ _

theorem Flags.noBorrow_toNat (a b : Byte) :
    (Flags.noBorrow a b).toNat = if a.toNat ≥ b.toNat then 1 else 0 := Bool.cond_decide _ _ _

theorem Flags.lowBit_toNat (a : Byte) : (Flags.lowBit a).toNat = a.toNat % 2 := by
  rw [Flags.lowBit, BitVec.getLsbD, Nat.toNat_testBit, Nat.pow_zero, Nat.div_one]

/-- Bit 7 is the top bit of a byte. -/
theorem Flags.highBit_toNat (a : Byte) : (Flags.highBit a).toNat = a.toNat / 128 := by
  have := a.isLt
  rw [Flags.highBit, BitVec.getLsbD, Nat.toNat_testBit]
  omega

/-! ## Results as numbers -/

theorem byte_sub_toNat (a b : Byte) : (a - b).toNat = (a.toNat + 256 - b.toNat) % 256 := by
  have := b.isLt
  rw [BitVec.toNat_sub]
  omega

theorem byte_shiftRight_one_toNat (a : Byte) : (a >>> 1).toNat = a.toNat / 2 := by
  rw [BitVec.toNat_ushiftRight, Nat.shiftRight_eq_div_pow]

theorem byte_shiftLeft_one_toNat (a : Byte) : (a <<< 1).toNat = a.toNat * 2 % 256 := by
  rw [BitVec.toNat_shiftLeft, Nat.shiftLeft_eq]

/-! ## The statements -/

/-- Settles O20, by the result of each instruction. -/
theorem loadAndAddImmediate : Obligations.LoadAndAddImmediate := fun x kk _ =>
  ⟨formatXK_toNat 0x6#4 x kk, formatXK_toNat 0x7#4 x kk, result_completes rfl fun _ value => value,
    result_completes rfl fun _ value => by rw [value, BitVec.toNat_add]⟩

/-- Settles O21, by the result of each instruction, bit by bit. -/
theorem copyAndLogic : Obligations.CopyAndLogic := fun x y _ =>
  ⟨formatXYN_eight_toNat x y 0x0#4, formatXYN_eight_toNat x y 0x1#4, formatXYN_eight_toNat x y 0x2#4,
    formatXYN_eight_toNat x y 0x3#4, result_completes rfl fun _ value => value,
    result_completes rfl fun _ value k => by rw [value, BitVec.getLsbD_or],
    result_completes rfl fun _ value k => by rw [value, BitVec.getLsbD_and],
    result_completes rfl fun _ value k => by rw [value, BitVec.getLsbD_xor]⟩

/-- Settles O22: the sum, and its carry written last. -/
theorem addSetsCarry : Obligations.AddSetsCarry := fun x y _ =>
  ⟨formatXYN_eight_toNat x y 0x4#4,
    resultAndFlag_completes rfl (BitVec.toNat_add _ _) (Flags.carry_toNat _ _)⟩

/-- Settles O23: the difference in each direction, and its flag written last. -/
theorem subtractSetsNoBorrow : Obligations.SubtractSetsNoBorrow := fun x y _ =>
  ⟨formatXYN_eight_toNat x y 0x5#4, formatXYN_eight_toNat x y 0x7#4,
    resultAndFlag_completes rfl (byte_sub_toNat _ _) (Flags.noBorrow_toNat _ _),
    resultAndFlag_completes rfl (byte_sub_toNat _ _) (Flags.noBorrow_toNat _ _)⟩

/-- Settles O24: the shift in each direction, and the bit shifted out written last. -/
theorem shiftsSetTheBitShiftedOut : Obligations.ShiftsSetTheBitShiftedOut := fun x y _ =>
  ⟨formatXYN_eight_toNat x y 0x6#4, formatXYN_eight_toNat x y 0xE#4,
    resultAndFlag_completes rfl (byte_shiftRight_one_toNat _) (Flags.lowBit_toNat _),
    resultAndFlag_completes rfl (byte_shiftLeft_one_toNat _) (Flags.highBit_toNat _)⟩

end Sys2Proof.Machine
end

section
/-! PROOFS. The end of an instruction that writes `I`, and of a transfer that stores bytes from `I`, each said once; a
transfer to registers; the words of the top nibble F and the decimal digits as numbers
(spec/43_index_memory.md R190 to R196); and the statements of the family 43_index_memory. -/

namespace Sys2Proof

/-- A word of the top nibble F, as a number (R92, R96). -/
theorem formatXK_fifteen_toNat (x : Reg) (kk : Byte) :
    (formatXK 0xF#4 x kk).toNat = 0xF000 + kk.toNat + x.val * 256 := by
  rw [formatXK_toNat, BitVec.toNat_ofNat]
  omega

end Sys2Proof

namespace Sys2Proof.Machine

/-! ## The address register -/

/-- An instruction that ends with a new `I` and a plain advance writes nothing but `I` and `PC`. -/
theorem address_completes {i : Instr} {s : State} {w : Word} {address : Nat}
    (run : exec i s = .next (s.setI w).advance) (value : w.toNat = address) :
    ∃ t, exec i s = .next t ∧ t.i.toNat = address ∧ PcAdvanced 2 s t ∧ Frame [.pc, .i] s t :=
  ⟨_, run, value, PcAdvanced.of_advance (s.setI w), (Frame.of_setI s w).advance⟩

/-! ## Transfers between registers and memory -/

/-- A store from `I` that stays in the bank and ends with a plain advance: byte `k` stands at the effective address `k`,
every byte outside the span reads as before, and nothing but memory and `PC` is written (R190, R195). -/
theorem store_completes {i : Instr} {s : State} {bs : List Byte} (canonical : s.mem.wf = true)
    (fits : s.i.toNat + bs.length ≤ 0x1000)
    (run : exec i s = .next (s.storeBytes (s.effAddr 0) bs).advance) :
    ∃ t, exec i s = .next t ∧ (∀ k (h : k < bs.length), t.readByte (s.effAddr k) = bs[k]) ∧
      (∀ a, a < s.effAddr 0 ∨ s.effAddr 0 + bs.length ≤ a → t.readByte a = s.readByte a) ∧
      PcAdvanced 2 s t ∧ Frame [.pc, .mem] s t := by
  have read := State.readByte_storeBytes canonical (a := s.effAddr 0) (bs := bs) fits
  refine ⟨_, run, fun k h => ?_, fun a outside => ?_, PcAdvanced.of_advance (s.storeBytes _ _),
    (Frame.of_storeBytes s _ _).advance⟩
  · have span : s.effAddr k = s.effAddr 0 + k := rfl
    rw [State.readByte_advance, read, dif_pos (by omega)]
    simp only [span, Nat.add_sub_cancel_left]
  · rw [State.readByte_advance, read, dif_neg (by omega)]

/-- A load from `I` that stays in the bank: `V[0]` to `V[x]` are the bytes from `I` on, the other registers are kept,
and nothing but registers and `PC` is written (R190, R196). -/
theorem exec_loadRegs_completes {x : Reg} {s : State} (inside : s.i.toNat + x.val ≤ 0xFFF) :
    ∃ t, exec (.loadRegs x) s = .next t ∧
      (∀ k : Reg, t.reg k = if k ≤ x then s.readByte (s.i.toNat + k.val) else s.reg k) ∧
      PcAdvanced 2 s t ∧ Frame [.pc, .v] s t :=
  ⟨_, exec_loadRegs_inside inside, s.loadedRegs_get x, PcAdvanced.of_advance { s with v := s.loadedRegs x },
    (Frame.of_registers s _).advance⟩

/-- The decimal digits as numbers: each fits in a byte (R194). -/
theorem decimalDigits_toNat (b : Byte) :
    (decimalDigits b).map BitVec.toNat = [b.toNat / 100, b.toNat / 10 % 10, b.toNat % 10] := by
  have := b.isLt
  simp only [decimalDigits, List.map, BitVec.toNat_ofNat, List.cons.injEq, and_true]
  omega

/-- Digit `k` as a number, by its place in the list of all three. -/
theorem decimalDigits_getElem_toNat (b : Byte) (k : Nat) (h : k < 3) :
    (decimalDigits b)[k].toNat = [b.toNat / 100, b.toNat / 10 % 10, b.toNat % 10][k] :=
  (List.getElem_map BitVec.toNat).symm.trans (List.getElem_of_eq (decimalDigits_toNat b) h)

/-! ## The statements -/

/-- Settles O29: the stored bytes are `V[0]` to `V[x]`. -/
theorem registerStore : Obligations.RegisterStore := by
  intro x s canonical
  have length := s.regBytes_length x
  refine ⟨formatXK_fifteen_toNat x 0x55#8, fun inside => ?_, fun outside => ?_⟩
  · obtain ⟨t, run, stored, others, advanced, frame⟩ :=
      store_completes canonical (by omega) (exec_storeRegs_inside inside)
    refine ⟨t, run, fun k upTo => ?_, length ▸ others, advanced, frame⟩
    have low : k.val < (s.regBytes x).length := length ▸ Nat.lt_succ_of_le upTo
    rw [stored k.val low, State.regBytes_getElem]
  · exact ⟨_, exec_storeRegs_outside outside, Faults.of_raise s _ _⟩

/-- Settles O30, by the two sides of the range test. -/
theorem registerLoad : Obligations.RegisterLoad := fun x s =>
  ⟨formatXK_fifteen_toNat x 0x65#8, exec_loadRegs_completes,
    fun outside => ⟨_, exec_loadRegs_outside outside, Faults.of_raise s _ _⟩⟩

/-- Settles O31: the store keeps `I` (O29), so the load reads the bytes it stored. -/
theorem storeThenLoadRestoresRegisters : Obligations.StoreThenLoadRestoresRegisters := by
  intro x s t regs canonical inside run
  obtain ⟨-, completes, -⟩ := registerStore x s canonical
  obtain ⟨t', run', stored, -, -, frame⟩ := completes inside
  cases run'.symm.trans run
  have sameI : t.i = s.i := frame .i (by decide)
  obtain ⟨u, loads, loaded, -, -⟩ :=
    exec_loadRegs_completes (x := x) (s := { t with v := regs }) (by rw [sameI]; exact inside)
  refine ⟨u, loads, fun k upTo => ?_, fun k above => ?_⟩
  · rw [loaded k, if_pos upTo, sameI]
    exact stored k upTo
  · rw [loaded k, if_neg (Fin.not_le.2 above)]
    rfl

/-- Settles O26, by the value each instruction puts into `I`. -/
theorem addressRegisterLoads : Obligations.AddressRegisterLoads :=
  ⟨fun nnn _ => ⟨formatA_toNat 0xA#4 nnn, address_completes rfl (immAddr_toNat nnn)⟩,
    fun x s => ⟨formatXK_fifteen_toNat x 0x29#8, address_completes rfl (glyphAddr_toNat (s.reg x))⟩⟩

/-- Settles O27: the sum of two words wraps at 16 bits. -/
theorem addressRegisterAddWraps : Obligations.AddressRegisterAddWraps := fun x _ =>
  ⟨formatXK_fifteen_toNat x 0x1E#8, address_completes rfl (by rw [BitVec.toNat_add, regWord_toNat])⟩

/-- Settles O28: the stored bytes are the three digits. -/
theorem decimalStore : Obligations.DecimalStore := by
  intro x s canonical
  refine ⟨formatXK_fifteen_toNat x 0x33#8, fun inside => ?_, fun outside => ?_⟩
  · obtain ⟨t, run, stored, others, advanced, frame⟩ :=
      store_completes canonical (by rw [decimalDigits_length]; omega) (exec_ldB_inside inside)
    have digit (k : Nat) (h : k < 3) :=
      (congrArg BitVec.toNat (stored k h)).trans (decimalDigits_getElem_toNat (s.reg x) k h)
    exact ⟨t, run, digit 0 (by decide), digit 1 (by decide), digit 2 (by decide), others, advanced, frame⟩
  · exact ⟨_, exec_ldB_outside outside, Faults.of_raise s _ _⟩

end Sys2Proof.Machine
end

section
/-! PROOFS. What a draw that completes does, said once (`Drawn`): the touched cells inverted, the collision in VF, the
frame; a touched cell lies at, right of or below the anchor; a draw anchored off VF touches the same cells again
(spec/44_display.md R211 to R215); and the statements of the family 44_display. -/

namespace Sys2Proof.Machine

/-! ## A draw that completes -/

/-- `t` is what a `Dxyn` that completes leaves of `s` (R212, R213, R214). -/
structure Drawn (x y : Reg) (n : Nibble) (s t : State) : Prop where
  cells : ∀ col row, FrameBuffer.cell t.fb col row = (FrameBuffer.cell s.fb col row ^^ s.touches x y n col row)
  hit : (∃ col row, s.touches x y n col row = true ∧ FrameBuffer.cell s.fb col row = true) → (t.reg vf).toNat = 1
  miss : (∀ col row, s.touches x y n col row = true → FrameBuffer.cell s.fb col row = false) → (t.reg vf).toNat = 0
  dirty : t.dirty = true
  others : OthersKept vf s t
  advanced : PcAdvanced 2 s t
  frame : Frame [.pc, .v, .fb, .dirty] s t

/-- A touched cell that was set raises the collision flag (R213). -/
theorem Applied.flag_of_hit {fb : FrameBuffer} {touched : Nat → Nat → Bool} {acc : Blit} (h : Applied fb touched acc)
    (hit : ∃ col row, touched col row = true ∧ FrameBuffer.cell fb col row = true) : acc.2 = true :=
  h.2.2 hit

/-- With every touched cell clear there is no collision (R213). -/
theorem Applied.flag_of_miss {fb : FrameBuffer} {touched : Nat → Nat → Bool} {acc : Blit} (h : Applied fb touched acc)
    (miss : ∀ col row, touched col row = true → FrameBuffer.cell fb col row = false) : acc.2 = false := by
  refine Bool.eq_false_iff.2 fun flag => ?_
  obtain ⟨col, row, touch, set⟩ := h.2.1 flag
  exact Bool.eq_false_iff.1 (miss col row touch) set

/-- VF after a draw is the collision flag (R213). -/
theorem State.vf_of_draw (s : State) (fb : FrameBuffer) (flag : Bool) :
    ((((s.setFb fb).setReg vf (Flags.ofBool flag)).setDirty true).advance.reg vf).toNat = flag.toNat := by
  rw [State.reg_advance, State.reg_setDirty, State.reg_setReg_same, Flags.ofBool_toNat]

/-- A `Dxyn` whose bytes lie in the bank completes and draws (R212). -/
theorem exec_drw_completes {x y : Reg} {n : Nibble} {s : State}
    (inside : n.toNat = 0 ∨ s.i.toNat + n.toNat - 1 ≤ 0xFFF) : ∃ t, exec (.drw x y n) s = .next t ∧ Drawn x y n s t := by
  have applied := s.blit_applied x y n
  have writes := WritesOnly.drw x y n (s.blit x y n).1 (Flags.ofBool (s.blit x y n).2) s
  exact ⟨_, exec_drw_inside inside,
    { cells := applied.1
      hit := fun hit => by rw [State.vf_of_draw, applied.flag_of_hit hit, Bool.toNat_true]
      miss := fun miss => by rw [State.vf_of_draw, applied.flag_of_miss miss, Bool.toNat_false]
      dirty := rfl
      others := fun q other => writes.regs q (beq_false_of_ne other)
      advanced := PcAdvanced.of_advance (State.setDirty _ true)
      frame := writes.frame }⟩

/-! ## The touched cells -/

/-- A touched cell lies in the grid, in the eight columns and `n` rows from the anchor (R215). -/
theorem State.touches_bounds {s : State} {x y : Reg} {n : Nibble} {col row : Nat}
    (touch : s.touches x y n col row = true) :
    col ≤ 63 ∧ row ≤ 31 ∧ (s.reg x).toNat % 64 ≤ col ∧ col ≤ (s.reg x).toNat % 64 + 7 ∧
      (s.reg y).toNat % 32 ≤ row ∧ row < (s.reg y).toNat % 32 + n.toNat := by
  simp only [State.touches, spriteTouches, Bool.and_eq_true, decide_eq_true_eq] at touch
  omega

/-- The touched cells depend on the two anchor registers, on `I` and on the bytes of memory only (R212). -/
theorem State.touches_congr {s t : State} {x y : Reg} (n : Nibble) (sameX : t.reg x = s.reg x)
    (sameY : t.reg y = s.reg y) (sameI : t.i = s.i) (sameBytes : ∀ a, t.readByte a = s.readByte a) :
    t.touches x y n = s.touches x y n := by
  funext col row
  simp only [State.touches, sameX, sameY, sameI, sameBytes]

/-- A draw anchored off VF leaves what it reads, so the same draw touches the same cells again (R212). -/
theorem Drawn.touches_eq {x y : Reg} {n : Nibble} {s t : State} (drawn : Drawn x y n s t) (hx : x ≠ vf)
    (hy : y ≠ vf) : t.touches x y n = s.touches x y n :=
  State.touches_congr n (drawn.others x hx) (drawn.others y hy) (drawn.frame .i (by decide))
    (drawn.frame .mem (by decide))

/-! ## The statements -/

/-- Settles O34, by the two sides of the range test. -/
theorem drawTogglesOrFaults : Obligations.DrawTogglesOrFaults := by
  refine fun x y n s => ⟨formatXYN_toNat 0xD#4 x y n, fun inside => ?_, fun rows outside => ?_⟩
  · obtain ⟨t, run, drawn⟩ := exec_drw_completes inside
    exact ⟨t, run, drawn.cells, drawn.hit, drawn.miss, drawn.dirty, drawn.others, drawn.advanced, drawn.frame⟩
  · exact ⟨_, exec_drw_outside rows outside, Faults.of_raise s _ _⟩

/-- Settles O35: a draw that completes changes touched cells only, and one that faults changes none. -/
theorem drawIsClippedNotWrapped : Obligations.DrawIsClippedNotWrapped := by
  intro x y n s t col row run changed
  by_cases inside : n.toNat = 0 ∨ s.i.toNat + n.toNat - 1 ≤ 0xFFF
  · obtain ⟨t', run', drawn⟩ := exec_drw_completes (x := x) (y := y) inside
    cases run'.symm.trans run
    refine State.touches_bounds (eq_true_of_ne_false fun untouched => changed ?_)
    rw [drawn.cells, untouched, Bool.xor_false]
  · cases (exec_drw_outside (by omega) (by omega)).symm.trans run
    exact absurd rfl changed

/-- Settles O36: both draws touch the same cells, and a cell inverted twice is as before. A touched cell that was clear
is set after the first draw, so the second one collides. -/
theorem drawTwiceRestoresTheScreen : Obligations.DrawTwiceRestoresTheScreen := by
  intro x y n s hx hy inside
  obtain ⟨t, run, first⟩ := exec_drw_completes (x := x) (y := y) inside
  have sameI : t.i = s.i := first.frame .i (by decide)
  have sameTouches := first.touches_eq hx hy
  obtain ⟨u, run', second⟩ := exec_drw_completes (x := x) (y := y) (sameI.symm ▸ inside)
  refine ⟨t, u, run, run', fun col row => ?_, fun ⟨col, row, touch⟩ clear => ⟨first.miss clear, ?_⟩⟩
  · rw [second.cells, first.cells, sameTouches, Bool.xor_assoc, Bool.xor_self, Bool.xor_false]
  · refine second.hit ⟨col, row, sameTouches ▸ touch, ?_⟩
    rw [first.cells, clear col row touch, touch, Bool.false_xor]

/-- Settles O33: a plain advance after the cleared frame buffer and `DIRTY`. -/
theorem clearScreen : Obligations.ClearScreen :=
  ⟨rfl, fun s => ⟨_, rfl, FrameBuffer.cell_clear, rfl,
    PcAdvanced.of_advance ((s.setFb FrameBuffer.clear).setDirty true),
    ((Frame.of_setFb s _).append (.of_setDirty _ true)).advance⟩⟩

end Sys2Proof.Machine
end

section
/-! PROOFS. The words of the top nibble E as numbers; the two outcomes of a KeyPress; what an operation can write while
the core does not run, and a whole run of such operations (spec/45_keypad_timers.md R230 to R237, spec/60_exceptions.md
R265, R274); and the statements of the family 45_keypad_timers. -/

namespace Sys2Proof

/-- A word of the top nibble E, as a number (R92, R96). -/
theorem formatXK_fourteen_toNat (x : Reg) (kk : Byte) :
    (formatXK 0xE#4 x kk).toNat = 0xE000 + kk.toNat + x.val * 256 := by
  rw [formatXK_toNat, BitVec.toNat_ofNat]
  omega

end Sys2Proof

namespace Sys2Proof.Machine

/-! ## The KeyPress -/

theorem hostKeyPress_of_waiting {s : State} {x : Reg} (waiting : s.run = .awaitingKey x) (k : Key) :
    hostKeyPress k s =
      .next ((((s.setKey k true).setReg x (BitVec.ofNat 8 k.val)).advance).setRun .running) := by
  simp only [hostKeyPress, waiting]

theorem hostKeyPress_of_not_waiting {s : State} (idle : ∀ x : Reg, s.run ≠ .awaitingKey x) (k : Key) :
    hostKeyPress k s = .next (s.setKey k true) := by
  unfold hostKeyPress
  split
  · next x waiting => exact absurd waiting (idle x)
  · rfl
  · rfl

theorem State.key_setKey_other (s : State) (k : Key) (b : Bool) {q : Key} (other : q ≠ k) :
    (s.setKey k b).key q = s.key q := by
  rw [State.key_setKey, if_neg other]

/-- A key's index fits in a register (R36). -/
theorem keyByte_toNat (k : Key) : (BitVec.ofNat 8 k.val).toNat = k.val :=
  (BitVec.toNat_ofNat _ _).trans (Nat.mod_eq_of_lt (Nat.lt_trans k.isLt (by decide)))

/-! ## Operations while the core does not run -/

theorem performed_of_next {op : HostOp} {s t : State} (h : perform op s = .next t) : performed op s = t := by
  simp only [performed, h]

/-- Outside `Running`, an operation that is no KeyPress and no Reset writes the key flags and `DIRTY` at most: Cycle and
TimerTick hold the state (D13, D14). -/
theorem performed_frame_of_not_running {op : HostOp} {s : State} (idle : s.run ≠ .running)
    (noReset : ∀ glyphs rom, op ≠ .reset glyphs rom) (noPress : ∀ k, op ≠ .keyPress k) :
    Frame [.keys, .dirty] s (performed op s) := by
  cases op with
  | reset glyphs rom => exact absurd rfl (noReset glyphs rom)
  | keyPress k => exact absurd rfl (noPress k)
  | cycle =>
    rw [performed_of_next (cycle_holds_of_not_running idle).2]
    exact .refl _ s
  | timerTick =>
    rw [performed_of_next (op := .timerTick) (hostTimerTick_of_not_running idle)]
    exact .refl _ s
  | keyRelease k => exact (Frame.of_setKey s k false).weaken (by simp)
  | clearDirty => exact (Frame.of_setDirty s false).weaken (by simp)

/-- When each operation of a run writes only the pieces `l` in the run state `r`, and `RUN` is none of them, then the
whole run stays in `r` and writes only those pieces. -/
theorem hostRun_frame {l : List Piece} {r : RunState} (runKept : .run ∉ l) {ops : List HostOp}
    (keeps : ∀ op ∈ ops, ∀ s : State, s.run = r → Frame l s (performed op s)) {s : State} (h : s.run = r) :
    Frame l s (hostRun ops s) := by
  induction ops generalizing s with
  | nil => exact .refl l s
  | cons op ops ih =>
    have first : Frame l s (performed op s) := keeps op List.mem_cons_self s h
    have stays : (performed op s).run = r := (first .run runKept).trans h
    exact first.trans (ih (fun op' mem => keeps op' (List.mem_cons_of_mem op mem)) stays)

/-! ## The statements -/

/-- Settles O49: each operation of the run finds the core still waiting, and writes the key flags and `DIRTY` at most. -/
theorem waitHoldsTheMachine : Obligations.WaitHoldsTheMachine := by
  intro ops s x waiting allowed
  refine hostRun_frame (by simp) (fun op mem t stillWaiting => ?_) waiting
  obtain ⟨noReset, noPress⟩ := allowed op mem
  exact performed_frame_of_not_running (by simp [stillWaiting]) noReset noPress

/-- Settles O37, by the two sides of the test of the key index. -/
theorem skipsOnKeyOrFaults : Obligations.SkipsOnKeyOrFaults := by
  intro x s
  refine ⟨formatXK_fourteen_toNat x 0x9E#8, formatXK_fourteen_toNat x 0xA1#8, fun isKey => ⟨?_, ?_⟩,
    fun noKey => ⟨?_, ?_⟩⟩
  · exact skip_completes (exec_skp_of_lt isKey) Iff.rfl
  · exact skip_completes (exec_sknp_of_lt isKey) (iff_of_eq (Bool.not_eq_true' _))
  · exact ⟨_, exec_skp_of_ge noKey, Faults.of_raise s _ _⟩
  · exact ⟨_, exec_sknp_of_ge noKey, Faults.of_raise s _ _⟩

/-- Settles O38: each instruction moves one byte, then advances. -/
theorem timerReadsAndWrites : Obligations.TimerReadsAndWrites := fun x s =>
  ⟨formatXK_fifteen_toNat x 0x07#8, formatXK_fifteen_toNat x 0x15#8, formatXK_fifteen_toNat x 0x18#8,
    result_completes rfl fun _ value => value,
    ⟨_, rfl, rfl, PcAdvanced.of_advance (s.setDT (s.reg x)), (Frame.of_setDT s _).advance⟩,
    ⟨_, rfl, rfl, PcAdvanced.of_advance (s.setST (s.reg x)), (Frame.of_setST s _).advance⟩⟩

/-- Settles O39, from the one arm of `Fx0A`, which writes `RUN` alone. -/
theorem keyWaitStarts : Obligations.KeyWaitStarts := fun x s =>
  ⟨formatXK_fifteen_toNat x 0x0A#8, _, rfl, rfl, Frame.of_setRun s _⟩

/-- Settles O40, by whether the core waits: `V[x]`, `PC` and `RUN` are written only then. -/
theorem keyPressCompletesTheWait : Obligations.KeyPressCompletesTheWait := by
  refine fun k s => ⟨fun x waiting => ?_, fun idle => ?_⟩
  · have press := hostKeyPress_of_waiting waiting k
    refine ⟨_, press, State.key_setKey_same s k true, fun q other => State.key_setKey_other s k true other, ?index,
      fun q other => ?others, PcAdvanced.of_advance s, rfl, hostKeyPress_frame press⟩
    case index => rw [State.reg_setRun, State.reg_advance, State.reg_setReg_same, keyByte_toNat]
    case others =>
      rw [State.reg_setRun, State.reg_advance, State.reg_setReg, if_neg other, State.reg_setKey]
  · exact ⟨_, hostKeyPress_of_not_waiting idle k, State.key_setKey_same s k true,
      fun q other => State.key_setKey_other s k true other, Frame.of_setKey s k true⟩

end Sys2Proof.Machine
end

section
/-! PROOFS. Which instructions write `FAULT` and `RUN` when they complete; what an operation can write while the core is
faulted (spec/60_exceptions.md R251 to R259, R265 to R267); and the statements of the family 60_exceptions. -/

namespace Sys2Proof.Machine

/-! ## The run state and the fault record of an instruction that completes -/

/-- `FAULT` is in no instruction's row of R20: only a fault entry writes it. -/
theorem fault_notMem_writtenBy (i : Instr) : Piece.fault ∉ writtenBy i := by
  cases i <;> simp [writtenBy]

/-- `RUN` is in the row of `Fx0A` alone (R20). -/
theorem eq_ldVxK_of_run_mem_writtenBy {i : Instr} (h : .run ∈ writtenBy i) : ∃ x, i = .ldVxK x := by
  cases i <;> simp_all [writtenBy]

/-- An instruction that completed left `RUN` as it was, or it is the `Fx0A` that waits now (R234). -/
theorem WritesOnly.run_kept_or_waits {i : Instr} {s t : State} (writes : WritesOnly i s t) (h : exec i s = .next t) :
    t.run = s.run ∨ ∃ x, t.run = .awaitingKey x := by
  by_cases hw : .run ∈ writtenBy i
  · obtain ⟨x, rfl⟩ := eq_ldVxK_of_run_mem_writtenBy hw
    cases h
    exact .inr ⟨x, rfl⟩
  · exact .inl (writes.frame .run hw)

/-- An instruction that leads a running core to `Faulted` did not complete: it raised its one fault (R252, R256). -/
theorem exec_raises_of_faulted {i : Instr} {s t : State} (running : s.run = .running) (h : exec i s = .next t)
    (faulted : t.run = .faulted) : ∃ c, causeOf i = some c ∧ t = s.raise c (encode i) := by
  rcases exec_cases h with writes | raises
  · rcases writes.run_kept_or_waits h with kept | ⟨x, waits⟩
    · exact RunState.noConfusion (running.symm.trans (kept.symm.trans faulted))
    · exact RunState.noConfusion (waits.symm.trans faulted)
  · exact raises

/-! ## Operations while the core is faulted -/

/-- In `Faulted`, an operation that is no Reset writes the key flags and `DIRTY` at most: a KeyPress finds no wait to
complete (R259, R265). -/
theorem performed_frame_of_faulted {op : HostOp} {s : State} (faulted : s.run = .faulted)
    (noReset : ∀ glyphs rom, op ≠ .reset glyphs rom) : Frame [.keys, .dirty] s (performed op s) := by
  cases op with
  | keyPress k =>
    have noWait : hostKeyPress k s = .next (s.setKey k true) := hostKeyPress_of_not_waiting (by simp [faulted]) k
    rw [performed_of_next (op := .keyPress k) noWait]
    exact (Frame.of_setKey s k true).weaken (by simp)
  | reset _ _ | cycle | timerTick | keyRelease _ | clearDirty =>
    exact performed_frame_of_not_running (by simp [faulted]) noReset (by simp)

/-! ## The statements -/

/-- Settles O48: each operation of the run finds the core faulted, and writes the key flags and `DIRTY` at most. -/
theorem faultedUntilReset : Obligations.FaultedUntilReset := by
  intro ops s faulted noReset
  refine hostRun_frame (by simp) (fun op mem t stillFaulted => ?_) faulted
  exact performed_frame_of_faulted stillFaulted (noReset op mem)

/-- Settles O46: with no fault to raise, the instruction completes, and its row names no `FAULT`. -/
theorem onlyEightInstructionsFault : Obligations.OnlyEightInstructionsFault := by
  intro i s noFault
  obtain ⟨t, run, writes | ⟨c, cause, -⟩⟩ := exec_completes_or_faults i s
  · exact ⟨t, run, writes.frame .fault (fault_notMem_writtenBy i), writes.run_kept_or_waits run⟩
  · simp [noFault] at cause

/-- Settles O47, by what the step met: a hold and an invalid word lead to no fault, and the word an instruction
records is the one it was decoded from. -/
theorem faultsArePrecise : Obligations.FaultsArePrecise := by
  intro s t running h faulted
  rcases step_cases h with ⟨idle, -⟩ | ⟨-, outside, rfl⟩ | ⟨-, -, op, why, -, -, rfl⟩ |
    ⟨-, -, op, i, fetched, decoded, hx⟩
  · exact absurd running idle
  · exact ⟨_, _, .of_raise s _ _, .inl ⟨rfl, rfl, outside⟩⟩
  · exact RunState.noConfusion (running.symm.trans faulted)
  · obtain ⟨c, cause, rfl⟩ := exec_raises_of_faulted running hx faulted
    rw [encode_of_decode decoded]
    exact ⟨c, op, .of_raise s c op, .inr ⟨i, fetched, decoded, cause⟩⟩

/-- Settles O41, from the one meaning each operation has in every run state. -/
theorem keyReleaseAndClearDirty : Obligations.KeyReleaseAndClearDirty := fun s =>
  ⟨fun k => ⟨_, rfl, State.key_setKey_same s k false, fun _ other => State.key_setKey_other s k false other,
    Frame.of_setKey s k false⟩, _, rfl, rfl, Frame.of_setDirty s false⟩

end Sys2Proof.Machine
end

section
/-! PROOFS. What the random byte instruction leaves (spec/42_alu.md R172, R173); the memory of a Reset with the default
FONT and no program, and the first step after it (spec/10_state.md R41, spec/70_reset_and_hazards.md R290, R293); and the
statements of the family other. -/

namespace Sys2Proof.Machine

/-! ## The random byte -/

theorem exec_rnd (x : Reg) (kk : Byte) (s : State) :
    exec (.rnd x kk) s = .next (s.setReg x (s.drawn &&& kk)).countDraw.advance := rfl

/-! ## Reset with the default FONT -/

/-- The glyphs of the default FONT are what the low addresses read as in an empty memory list (R67). -/
theorem font_getElem_eq_resetByte {a : Nat} (h : a < 80) : font[a] = resetByte a :=
  (dif_pos h).symm

/-- Bytes that equal the reset contents where they are stored leave an empty memory list empty. -/
theorem Memory.writeBytes_nil_of_resetBytes {bs : List Byte} {a : Nat}
    (same : ∀ (k : Nat) (h : k < bs.length), bs[k] = resetByte (a + k)) : Memory.writeBytes [] a bs = [] := by
  induction bs generalizing a with
  | nil => rfl
  | cons b bs ih =>
    have first : b = resetByte a := same 0 (Nat.zero_lt_succ _)
    have unlisted : Memory.write [] a b = [] := if_pos first
    have rest : ∀ (k : Nat) (h : k < bs.length), bs[k] = resetByte (a + 1 + k) := fun k h => by
      rw [Nat.add_assoc, Nat.add_comm 1 k]
      exact same (k + 1) (Nat.succ_lt_succ h)
    rw [Memory.writeBytes, unlisted, ih rest]

theorem Memory.writeBytes_font : Memory.writeBytes State.reset.mem 0x000 font.toList = [] :=
  Memory.writeBytes_nil_of_resetBytes fun k h => by
    rw [Nat.zero_add, Vector.getElem_toList, font_getElem_eq_resetByte]

/-- Reset with the default FONT and an empty ROM rebuilds the reset state (R41, R290). -/
theorem State.afterReset_font_nil : State.reset.afterReset font [] = State.reset := by
  rw [State.afterReset, Memory.writeBytes, Memory.writeBytes_font]
  rfl

/-! ## The first step without a program -/

/-- With no program the word at 0x200 is 0x0000 (R293). -/
theorem State.fetch_reset : State.reset.fetch = some 0x0000#16 := by decide

/-- The word 0x0000 is invalid: it is reported and skipped (R97, R124). -/
theorem step_reset : step State.reset = .next (State.reset.skipInvalid 0x0000#16) :=
  (step_of_running rfl).trans (cycleRunning_of_invalid (why := .invalidZero) State.fetch_reset rfl)

/-! ## The statements -/

/-- Settles O25: the draw masked, bit by bit; the frame is that of the instruction's row. -/
theorem randomByteIsMasked : Obligations.RandomByteIsMasked := by
  intro x kk s
  have writes := WritesOnly.rnd x kk (s.drawn &&& kk) s
  refine ⟨formatXK_toNat 0xC#4 x kk, _, exec_rnd x kk s, fun k => ?_, rfl,
    fun q other => writes.regs q (beq_false_of_ne other), PcAdvanced.of_advance (State.countDraw _), writes.frame⟩
  rw [State.reg_advance, State.reg_countDraw, State.reg_setReg_same, BitVec.getLsbD_and, State.drawn]

/-- Settles O44: the glyphs are read from the reset contents, and the first step meets the word 0x0000. -/
theorem resetStateValues : Obligations.ResetStateValues := by
  refine ⟨rfl, rfl, rfl, rfl, by decide, by decide, ?reset, _, step_reset, rfl, rfl⟩
  case reset =>
    rw [performed_of_next (op := .reset font []) (hostReset_of_fits (Nat.zero_le _) font State.reset),
      State.afterReset_font_nil]

end Sys2Proof.Machine
end
